-- ==== Sys2Proof/Word.lean ====
section
/-! DEFINITION. The word types of the P8439 CORE: registers are 32 bits, memory is bytes, everything is unsigned
(00_scope.md R8, R9, R10). -/

namespace Sys2Proof

/-- A register, 32 bits (R8). -/
abbrev Word := BitVec 32

/-- A byte of data memory or of a byte string (R9). -/
abbrev Byte := BitVec 8

/-- A Poly1305 multiplier or mask, 128 bits (R8). -/
abbrev Half := BitVec 128

end Sys2Proof
end

