-- ==== Sys2Proof/Config.lean ====
section
/-! DEFINITION. What a platform fixes (the parameters PA_W and MemAdmit of 00_scope.md R7; BASE and N_INST stand with
the instances in State) and the values the spec leaves free ("any value", R15). -/

namespace Sys2Proof

/-- A run of data-memory addresses `lo .. lo + size - 1` that the platform makes ordinary memory. -/
structure Region where
  lo   : Nat
  size : Nat
deriving DecidableEq, Repr

/-- The platform's parameters (R7). `paW` is PA_W; `ordinary` lists where `MemAdmit` is true (20_memory.md R65).
DEDUCED, assumption 3: every predicate on the finite set `[0, 2^PA_W)` is such a list. -/
structure Params where
  paW      : Nat
  ordinary : List Region
deriving DecidableEq, Repr

/-- The parameters of 95_test_vectors.md's conventions: `PA_W = 64` and `MemAdmit` true everywhere.
DESIGN CHOICE, assumption 2: used by `State.reset` only; the spec leaves both OPEN. -/
def Params.ofVectors : Params := { paW := 64, ordinary := [{ lo := 0, size := 2 ^ 64 }] }

/-- The bytes the spec leaves to "any value" (00_scope.md R15, 60_exceptions.md R264, 70_reset_and_hazards.md R303):
draw number `n`. It has no body, so nothing can be proved of what it is (assumption 5). -/
opaque Config.freeByte : Nat → BitVec 8

end Sys2Proof
end

