-- ==== Sys2Proof/Syntax.lean ====
section
/-! DEFINITION. The instructions of the P8439 CORE: the nine commands of 30_encoding.md R91. A command word carries no
operand (R90, R92), so no constructor has an argument. -/

namespace Sys2Proof

/-- The commands, one constructor per row of the opcode table. -/
inductive Instr
  /-- CHACHA20_BLOCK (40_chacha20.md R121). -/
  | chacha20Block
  /-- CHACHA20_XOR (40_chacha20.md R122). -/
  | chacha20Xor
  /-- POLY1305_INIT (41_poly1305.md R159). -/
  | poly1305Init
  /-- POLY1305_UPDATE (41_poly1305.md R160). -/
  | poly1305Update
  /-- POLY1305_FINISH (41_poly1305.md R161). -/
  | poly1305Finish
  /-- POLY1305_AUTH (41_poly1305.md R162). -/
  | poly1305Auth
  /-- AEAD_ENCRYPT (42_aead.md R194). -/
  | aeadEncrypt
  /-- AEAD_DECRYPT (42_aead.md R196). -/
  | aeadDecrypt
  /-- ZEROIZE (43_control.md R235). -/
  | zeroize
deriving DecidableEq, Repr

end Sys2Proof
end

