-- ==== Sys2Proof/Machine/HostProgram.lean ====
section
/-! DEFINITION. The host's and the platform's side of the machine as plain data: the host's statements
(30_encoding.md R95), the host agent, and the turns that say which agent moves (60_exceptions.md R269). -/

namespace Sys2Proof.Machine

/-- One statement of a host program. `WR`, `RD` and `CMD` of R95 are bus transactions at a host address
`BASE + offset` (10_state.md R23), with the access width in bytes so that the accesses of 20_memory.md R71 can be
written too. The form of a data-memory access the spec leaves open (00_scope.md R18, 20_memory.md R60): DESIGN CHOICE,
assumption 25, one byte a statement, and a store's value written in it. -/
inductive HostStmt
  /-- A register write of `v` with an access of `bytes` bytes at host address `addr`. -/
  | write (addr bytes : Nat) (v : Word)
  /-- A register read with an access of `bytes` bytes at host address `addr`, into host variable `var`. -/
  | read (addr bytes var : Nat)
  /-- `<label>:` names the next statement (R95). -/
  | label (l : Nat)
  /-- `BNZ <var>, <mask>, <label>` (R95). -/
  | bnz (var : Nat) (mask : Word) (l : Nat)
  /-- A host read of the data-memory byte `a` into a host variable (00_scope.md R18). -/
  | loadByte (a var : Nat)
  /-- A host write of the data-memory byte `a` (00_scope.md R18). -/
  | storeByte (a : Nat) (v : Byte)
  /-- The host samples the IRQ level of instance number `k` into a variable (60_exceptions.md R266). -/
  | irq (k var : Nat)
deriving DecidableEq, Repr

/-- The host agent: its program, the index of its next statement and its variables (assumption 14). There is one for
all the instances, though 00_scope.md R18 counts agents for each instance and 60_exceptions.md R273 and R277 speak of
several host agents and threads: DESIGN CHOICE, assumption 24. -/
structure HostAgent where
  prog : List HostStmt
  pos  : Nat
  vars : List (Nat × Word)
deriving DecidableEq, Repr

/-- Who moves next. Every order of the agents' steps is some list of turns (60_exceptions.md R269; assumption 1). -/
inductive Turn
  /-- The host runs its next statement. -/
  | host
  /-- The engine of instance number `k` takes its step, if it has one (43_control.md R232). -/
  | engine (k : Nat)
  /-- The platform asserts the reset input of instance number `k`, a level (70_reset_and_hazards.md R300). -/
  | assertReset (k : Nat)
  /-- The platform releases the reset input of instance number `k` (70_reset_and_hazards.md R300). -/
  | releaseReset (k : Nat)
  /-- Power is lost and comes back; data memory then holds `cells` (60_exceptions.md R278; 93 I8). -/
  | powerUp (cells : List (Nat × BitVec 8))
  /-- Another bus agent reads the data-memory byte `a` (20_memory.md R60, R76; one byte a turn: assumption 25). -/
  | platformRead (a : Nat)
  /-- Another bus agent writes the data-memory byte `a` (20_memory.md R60, R76; one byte a turn: assumption 25). -/
  | platformWrite (a : Nat) (v : Byte)
deriving DecidableEq, Repr

end Sys2Proof.Machine
end

