-- ==== Sys2Proof/Machine/State.lean ====
section
/-! DEFINITION. The state of the machine (10_state.md R20, R43; 00_scope.md R7) as plain data, the reasons a step
can stop, and the state after reset (70_reset_and_hazards.md R301, R302). -/

namespace Sys2Proof.Machine

/-- A byte range of data memory, address and length (20_memory.md R61). -/
structure Range where
  addr : Nat
  len  : Nat
deriving DecidableEq, Repr

/-- A 64-bit operand held in two registers, `X_LO` and `X_HI` (10_state.md R30, R31). -/
structure RegPair where
  lo : Word
  hi : Word
deriving DecidableEq, Repr

/-- The hidden Poly1305 context (10_state.md R43). `acc` is the residue, an integer (41_poly1305.md R164). -/
structure PolyCtx where
  valid : Bool
  r     : Half
  s     : Half
  acc   : Nat
  pbuf  : List Byte
deriving DecidableEq, Repr

/-- The closed context: everything zeroized (10_state.md R43). -/
def PolyCtx.closed : PolyCtx := { valid := false, r := 0, s := 0, acc := 0, pbuf := [] }

/-- One CORE instance (10_state.md R20): the register file of R23, the stored STATUS fields of R34, the hidden context
of R43, its BASE (00_scope.md R7), the level of its reset input (70_reset_and_hazards.md R300), and the ranges that the
busy rule claims for it (20_memory.md R76; assumption 6, the model's own bookkeeping). ID is a constant and ERR,
AUTH_FAIL, CTX_VALID, PBUF_LEN and IRQ are functions of these fields (R24, R37, R38, R47). R22 and R20 count 27 operand
registers and 32 registers where the map of R23 lists 26 and 30: DESIGN CHOICE, assumption 23, the map. -/
structure Inst where
  base        : Nat
  held        : Bool
  irqEn       : Bool
  cmd         : Word
  busy        : Bool
  done        : Bool
  errcode     : BitVec 4
  ctrExh      : Bool
  overrun     : Bool
  key         : Vector Word 8
  nonce       : Vector Word 3
  counter     : Word
  src         : RegPair
  dst         : RegPair
  len         : RegPair
  aad         : RegPair
  aadlen      : RegPair
  tag         : Vector Word 4
  ctx         : PolyCtx
  claimReads  : List Range
  claimWrites : List Range
deriving DecidableEq, Repr

/-- An instance after any reset (70_reset_and_hazards.md R301, R302): every register zero, the context closed, the
engine idle. Its BASE is the platform's and stays; its reset input is released and no range is claimed
(assumption 10). -/
def Inst.reset (base : Nat) : Inst :=
  { base := base, held := false, irqEn := false, cmd := 0, busy := false, done := false, errcode := 0, ctrExh := false,
    overrun := false, key := Vector.replicate 8 0, nonce := Vector.replicate 3 0, counter := 0,
    src := ⟨0, 0⟩, dst := ⟨0, 0⟩, len := ⟨0, 0⟩, aad := ⟨0, 0⟩, aadlen := ⟨0, 0⟩,
    tag := Vector.replicate 4 0, ctx := PolyCtx.closed, claimReads := [], claimWrites := [] }

/-- Data memory: address and byte, addresses strictly rising, no byte equal to what an unlisted address reads as. -/
abbrev Memory := List Host.Cell

/-- What an unlisted data-memory address reads as. DESIGN CHOICE, assumption 4: the convention of
95_test_vectors.md, "Data memory not mentioned is 0". -/
def unlistedByte : Byte := 0

/-- The canonical form of a memory. -/
def Memory.wf (m : Memory) : Bool :=
  decide (m.Pairwise fun c d => c.1 < d.1) && m.all fun c => c.2 != unlistedByte

/-- The whole machine: the platform's parameters, the CORE instances (those before the one in focus, the one in focus,
those after: assumption 21), data memory, the host agent, the turns to come (assumption 1) and the number of the next
free byte (assumption 5). -/
structure State where
  params : Params
  before : List Inst
  core   : Inst
  after  : List Inst
  mem    : Memory
  host   : HostAgent
  turns  : List Turn
  draws  : Nat
deriving DecidableEq, Repr

/-- Why the machine stops with a fault: the host faults of 60_exceptions.md R265 and an access to no address. -/
inductive Fault
  /-- R265 (a): a register access of the wrong width or alignment (20_memory.md R71). Raised by a host register access
  only. Safe: the chip answers it with a bus error and changes nothing, and the model stops. -/
  | hostAccess
  /-- R265 (b): a host or platform access to a byte of a pending command's ranges (20_memory.md R76). Raised by a data
  access of the host or the platform only. Safe: a race the chip does not detect. -/
  | bufferRace
  /-- R265 (c): a doorbell while another instance's command has an intersecting range and one of the two writes
  (20_memory.md R82). Raised by a doorbell only. Safe: a race the chip does not detect. -/
  | launchRace
  /-- A host or platform data access at or above `2^PA_W`: no such byte (20_memory.md R60). Safe: it stops. -/
  | noSuchAddress
deriving DecidableEq, Repr

/-- Why the machine gives a step no meaning. -/
inductive Refusal
  /-- An instruction that has no meaning yet, by its mnemonic. Raised by no arm of this model. Safe. -/
  | notModelled (mnemonic : String)
  /-- A host or platform access to a data address that exists and is not ordinary memory (20_memory.md R65): a device
  whose behaviour is the platform's, or memory protected from the CORE, which the model holds no bytes of (R75). Safe: it
  stops (DESIGN CHOICE for protected memory, assumption 12). -/
  | notOrdinaryMemory
  /-- A host register access outside every instance's register block: not an access to this hardware (10_state.md R23).
  Safe: it stops (assumption 13). -/
  | noRegisterBlock
  /-- A turn or an IRQ sample that names an instance the platform does not have (60_exceptions.md R277). Safe. -/
  | noSuchInstance
  /-- A host branch to a label its program does not hold (30_encoding.md R95). Safe. -/
  | noSuchLabel
deriving DecidableEq, Repr

/-- The machine right after reset: one instance with every register as 70_reset_and_hazards.md R301 and R302 say,
memory with nothing listed, an idle host, no turn scheduled. The parameters are assumption 2's DESIGN CHOICE. -/
def State.reset : State :=
  { params := Params.ofVectors, before := [], core := Inst.reset 0, after := [], mem := [],
    host := { prog := [], pos := 0, vars := [] }, turns := [], draws := 0 }

end Sys2Proof.Machine
end

