-- ==== Sys2Proof/Machine/Flags.lean ====
section
/-! DEFINITION. The error codes (60_exceptions.md R260), the STATUS word (10_state.md R34), its W1C write (R41) and the
interrupt output (R47). -/

namespace Sys2Proof.Machine

/-- The error codes of 60_exceptions.md R260. -/
inductive ErrCode
  | none | illegalCmd | counterRange | length | address | overlap | noContext | authFail | busError
deriving DecidableEq, Repr

/-- The number of an error code (R260). -/
def errNumber : ErrCode → BitVec 4
  | .none => 0
  | .illegalCmd => 1
  | .counterRange => 2
  | .length => 3
  | .address => 4
  | .overlap => 5
  | .noContext => 6
  | .authFail => 7
  | .busError => 8

/-- STATUS.ERR (10_state.md R37). -/
def statusErr (c : Inst) : Bool := c.errcode != 0

/-- STATUS.AUTH_FAIL (10_state.md R37). -/
def statusAuthFail (c : Inst) : Bool := c.errcode == 7

/-- The STATUS word, bit 31 down to bit 0 (10_state.md R34, R38). -/
def statusWord (c : Inst) : Word :=
  0#12 ++ BitVec.ofNat 4 c.ctx.pbuf.length ++ 0#5 ++ BitVec.ofBool c.overrun ++ BitVec.ofBool c.ctrExh
    ++ BitVec.ofBool c.ctx.valid ++ c.errcode ++ BitVec.ofBool (statusAuthFail c) ++ BitVec.ofBool (statusErr c)
    ++ BitVec.ofBool c.done ++ BitVec.ofBool c.busy

/-- The CTRL word (10_state.md R25). -/
def ctrlWord (c : Inst) : Word := 0#31 ++ BitVec.ofBool c.irqEn

/-- A host write of STATUS: DONE and OVERRUN are cleared by writing one; clearing DONE clears the error record
(10_state.md R41). -/
def writeStatus (v : Word) (c : Inst) : Inst :=
  let c := if v.getLsbD 1 && c.done then { c with done := false, errcode := 0 } else c
  if v.getLsbD 10 then { c with overrun := false } else c

/-- The interrupt output `IRQ = DONE & IRQ_EN` (10_state.md R47, 60_exceptions.md R266). -/
def irqLevel (c : Inst) : Bool := c.done && c.irqEn

end Sys2Proof.Machine
end

