-- ==== Sys2Proof/Machine/Memory.lean ====
section
/-! DEFINITION. Data memory as a canonical list (20_memory.md R60), and the memory primitives of R62 and R63. -/

namespace Sys2Proof.Machine

/-- The byte at an address (R62). -/
def readByte : Memory → Nat → Byte
  | [], _ => unlistedByte
  | c :: m, a => if c.1 = a then c.2 else readByte m a

/-- A memory without any entry for an address. -/
def dropCell (m : Memory) (a : Nat) : Memory := m.filter fun c => decide (c.1 ≠ a)

/-- A memory with an entry put in before the first larger address. -/
def putCell : Memory → Nat → Byte → Memory
  | [], a, b => [(a, b)]
  | c :: m, a, b => if a < c.1 then (a, b) :: c :: m else c :: putCell m a b

/-- A memory with one byte changed, in canonical form (R63). -/
def writeByte (m : Memory) (a : Nat) (b : Byte) : Memory :=
  if b = unlistedByte then dropCell m a else putCell (dropCell m a) a b

/-- `MemRead(a, n)` (R62). -/
def readBytes (m : Memory) (a : Nat) : Nat → List Byte
  | 0 => []
  | n + 1 => readByte m a :: readBytes m (a + 1) n

/-- `MemWrite(a, len(bs), bs)` (R63). -/
def writeBytes (m : Memory) (a : Nat) : List Byte → Memory
  | [] => m
  | b :: bs => writeBytes (writeByte m a b) (a + 1) bs

end Sys2Proof.Machine
end

