-- ==== Sys2Proof/WellFormed.lean ====
section
/-! DEFINITION. The checks on what is written from outside: command words (30_encoding.md R90, R91), platform
parameters and bases (00_scope.md R7), host programs (20_memory.md R71, 30_encoding.md R95). A term of `Instr` itself
has no operand and is always well-formed. -/

namespace Sys2Proof

/-- The nine legal command words (R91). -/
def legalWords : List Word :=
  [0x00000001, 0x00000002, 0x00000010, 0x00000011, 0x00000012, 0x00000013, 0x00000020, 0x00000021, 0x00000030]

/-- A command word is legal (R90): RSVD is zero and OPCODE is assigned. -/
def cmdWordWf (w : Word) : Bool := legalWords.contains w

/-- The parameters are legal (00_scope.md R7): PA_W is 1..64 and MemAdmit is a predicate on `[0, 2^PA_W)`. -/
def Params.wf (p : Params) : Bool :=
  decide (1 ≤ p.paW) && decide (p.paW ≤ 64) && p.ordinary.all fun r => decide (r.lo + r.size ≤ 2 ^ p.paW)

/-- The bases of the instances are legal (00_scope.md R7, 10_state.md R23): 4 KiB-aligned and no two alike. -/
def basesWf (bases : List Nat) : Bool :=
  (bases.all fun b => b % 0x1000 == 0) && decide (bases.Pairwise fun b c => b ≠ c)

/-- A host statement is well-formed in a program: register accesses are 32-bit and aligned (20_memory.md R71), and a
branch goes to a label of the program (30_encoding.md R95). -/
def Machine.HostStmt.wf (prog : List Machine.HostStmt) : Machine.HostStmt → Bool
  | .write addr bytes _ => bytes == 4 && addr % 4 == 0
  | .read addr bytes _ => bytes == 4 && addr % 4 == 0
  | .bnz _ _ l => prog.contains (.label l)
  | .label _ => true
  | .loadByte _ _ => true
  | .storeByte _ _ => true
  | .irq _ _ => true

/-- A host program is well-formed: every statement of it is. -/
def hostProgramWf (prog : List Machine.HostStmt) : Bool := prog.all fun st => st.wf prog

end Sys2Proof
end

