-- ==== Sys2Proof/Decode.lean ====
section
/-! DEFINITION. Decoding a command word (30_encoding.md R90, R91, R94), total, rejecting by name, and the encoder. -/

namespace Sys2Proof

/-- Why a word is no command (R94). -/
inductive DecodeError
  /-- `RSVD ≠ 0`. -/
  | reservedBits
  /-- `RSVD = 0` and OPCODE is not assigned. -/
  | unassignedOpcode
deriving DecidableEq, Repr

/-- OPCODE, bits 7:0 of a command word (R90). -/
def opcodeOf (w : Word) : BitVec 8 := w.extractLsb' 0 8

/-- RSVD, bits 31:8 of a command word (R90). -/
def rsvdOf (w : Word) : BitVec 24 := w.extractLsb' 8 24

/-- The opcode map of R91. -/
def decodeOpcode (op : BitVec 8) : Option Instr :=
  match op.toNat with
  | 0x01 => some .chacha20Block
  | 0x02 => some .chacha20Xor
  | 0x10 => some .poly1305Init
  | 0x11 => some .poly1305Update
  | 0x12 => some .poly1305Finish
  | 0x13 => some .poly1305Auth
  | 0x20 => some .aeadEncrypt
  | 0x21 => some .aeadDecrypt
  | 0x30 => some .zeroize
  | _ => none

/-- The command a word stands for (R90, R91), or why it is illegal (R94). -/
def decode (w : Word) : Except DecodeError Instr :=
  if rsvdOf w = 0 then
    match decodeOpcode (opcodeOf w) with
    | some i => .ok i
    | none => .error .unassignedOpcode
  else .error .reservedBits

/-- The decoder as the host asks for it: the low `nbits` bits of `w`, zero above. -/
def decodeTableWord (nbits w : Nat) : Option Instr :=
  if w % 2 ^ nbits < 2 ^ 32 then
    match decode (BitVec.ofNat 32 (w % 2 ^ nbits)) with
    | .ok i => some i
    | .error _ => none
  else none

/-- The command word of a command, from the second column of R91. -/
def encode : Instr → Word
  | .chacha20Block => 0x00000001
  | .chacha20Xor => 0x00000002
  | .poly1305Init => 0x00000010
  | .poly1305Update => 0x00000011
  | .poly1305Finish => 0x00000012
  | .poly1305Auth => 0x00000013
  | .aeadEncrypt => 0x00000020
  | .aeadDecrypt => 0x00000021
  | .zeroize => 0x00000030

end Sys2Proof
end

