-- ==== Sys2Proof/Machine/Bytes.lean ====
section
/-! DEFINITION. The little-endian conversions between byte strings and integers (00_scope.md R12, 20_memory.md R67). -/

namespace Sys2Proof.Machine

/-- `LEn(b)`: the integer of a byte string, least significant byte first (R12). -/
def leNat : List Byte → Nat
  | [] => 0
  | b :: bs => b.toNat + 256 * leNat bs

/-- `ser32`, `ser64`, `ser128` for n = 4, 8, 16: the n bytes of x, least significant first (R12). -/
def serNat : Nat → Nat → List Byte
  | 0, _ => []
  | n + 1, x => BitVec.ofNat 8 x :: serNat n (x / 256)

/-- `ser32(x)` (R12). -/
def ser32 (x : Word) : List Byte := serNat 4 x.toNat

/-- `LE32(b[4k .. 4k+3])` (R12, R68). -/
def le32At (b : List Byte) (k : Nat) : Word := BitVec.ofNat 32 (leNat ((b.drop (4 * k)).take 4))

end Sys2Proof.Machine
end

