-- ==== Sys2Proof/Machine/Operands.lean ====
section
/-! DEFINITION. Every operand form (30_encoding.md R92): the byte strings and integers a command takes from the operand
registers, and the data ranges it names (20_memory.md R61). -/

namespace Sys2Proof.Machine

/-- `R64(X)`: the 64-bit value of a pair (00_scope.md R13, R92). -/
def r64 (p : RegPair) : Nat := p.hi.toNat * 2 ^ 32 + p.lo.toNat

/-- `KEYBYTES`: the 32-byte key (00_scope.md R13, 10_state.md R27). -/
def keyBytes (c : Inst) : List Byte := c.key.toList.flatMap ser32

/-- `NONCEBYTES`: the 12-byte nonce (00_scope.md R13, 10_state.md R28). -/
def nonceBytes (c : Inst) : List Byte := c.nonce.toList.flatMap ser32

/-- `TAGBYTES`: the 16-byte tag (00_scope.md R13, 10_state.md R33). -/
def tagBytes (c : Inst) : List Byte := c.tag.toList.flatMap ser32

/-- The TAG words of a 16-byte tag: `REG[TAGk] = LE32(t[4k .. 4k+3])` (10_state.md R33). -/
def tagWords (t : List Byte) : Vector Word 4 := #v[le32At t 0, le32At t 1, le32At t 2, le32At t 3]

/-- The logical counter `ctr33` (10_state.md R29). -/
def ctr33 (c : Inst) : Nat := c.ctrExh.toNat * 2 ^ 32 + c.counter.toNat

/-- The SRC range `(R64(SRC), R64(LEN))` (20_memory.md R61). -/
def srcRange (c : Inst) : Range := { addr := r64 c.src, len := r64 c.len }

/-- The AAD range `(R64(AAD), R64(AADLEN))` (20_memory.md R61). -/
def aadRange (c : Inst) : Range := { addr := r64 c.aad, len := r64 c.aadlen }

/-- The DST range of a command that writes `n` bytes (20_memory.md R61). -/
def dstRange (c : Inst) (n : Nat) : Range := { addr := r64 c.dst, len := n }

/-- The read ranges of a command, the table of 20_memory.md R61. -/
def readRanges (i : Instr) (c : Inst) : List Range :=
  match i with
  | .chacha20Block => []
  | .chacha20Xor => [srcRange c]
  | .poly1305Init => []
  | .poly1305Update => [srcRange c]
  | .poly1305Finish => []
  | .poly1305Auth => [srcRange c]
  | .aeadEncrypt => [aadRange c, srcRange c]
  | .aeadDecrypt => [aadRange c, srcRange c]
  | .zeroize => []

/-- The write range of a command, the table of 20_memory.md R61. -/
def writeRanges (i : Instr) (c : Inst) : List Range :=
  match i with
  | .chacha20Block => [dstRange c 64]
  | .chacha20Xor => [dstRange c (r64 c.len)]
  | .poly1305Init => []
  | .poly1305Update => []
  | .poly1305Finish => []
  | .poly1305Auth => []
  | .aeadEncrypt => [dstRange c (r64 c.len + 16)]
  | .aeadDecrypt => [dstRange c (r64 c.len)]
  | .zeroize => []

/-- The read ranges of a command word; an illegal word has none (20_memory.md R61). -/
def wordReadRanges (w : Word) (c : Inst) : List Range :=
  match decode w with
  | .ok i => readRanges i c
  | .error _ => []

/-- The write ranges of a command word; an illegal word has none (20_memory.md R61). -/
def wordWriteRanges (w : Word) (c : Inst) : List Range :=
  match decode w with
  | .ok i => writeRanges i c
  | .error _ => []

end Sys2Proof.Machine
end

