-- ==== Sys2Proof/Machine/Ops.lean ====
section
/-! DEFINITION. The shared operations: range checks (20_memory.md R64, R65, R66), the completion that ends every command
with its error code (43_control.md R233; this machine's only "exception entry", 60_exceptions.md R263, R270), the
context's closing, the free bytes of a bus error, and the choice of an instance. -/

namespace Sys2Proof.Machine

/-- `inrange(a, n)` (20_memory.md R64). -/
def inRange (p : Params) (a n : Nat) : Bool := n == 0 || decide (a + n ≤ 2 ^ p.paW)

/-- `MemAdmit(a)`, a predicate on `[0, 2^PA_W)` (00_scope.md R7, 20_memory.md R65). -/
def memAdmit (p : Params) (a : Nat) : Bool :=
  decide (a < 2 ^ p.paW) && p.ordinary.any fun r => decide (r.lo ≤ a) && decide (a < r.lo + r.size)

/-- `admitted(a, n)`: every byte of the range is admitted (20_memory.md R65). -/
def admitted (p : Params) (a : Nat) : Nat → Bool
  | 0 => true
  | n + 1 => memAdmit p a && admitted p (a + 1) n

/-- `disjoint((a, n), (b, k))` (20_memory.md R66). -/
def disjoint (x y : Range) : Bool :=
  x.len == 0 || y.len == 0 || decide (x.addr + x.len ≤ y.addr) || decide (y.addr + y.len ≤ x.addr)

/-- The byte `a` lies in a range. -/
def inSpan (x : Range) (a : Nat) : Bool := decide (x.addr ≤ a) && decide (a < x.addr + x.len)

/-- The instance in focus replaced. -/
def State.setCore (s : State) (c : Inst) : State := { s with core := c }

/-- Completion, the last action of every engine step, with the error code the command ended with (43_control.md R233;
`fail E` and `ok` of 00_scope.md R15). -/
def State.complete (s : State) (e : ErrCode) : State :=
  s.setCore { s.core with errcode := errNumber e, busy := false, done := true }

/-- "Close the context" (41_poly1305.md section 2, 10_state.md R43). -/
def State.closeCtx (s : State) : State := s.setCore { s.core with ctx := PolyCtx.closed }

/-- The TAG registers written with a tag (10_state.md R33). -/
def State.setTag (s : State) (t : List Byte) : State := s.setCore { s.core with tag := tagWords t }

/-- `MemRead(a, n)` of data memory (20_memory.md R62). -/
def State.memRead (s : State) (a n : Nat) : List Byte := readBytes s.mem a n

/-- `MemWrite(a, len(v), v)` of data memory (20_memory.md R63). -/
def State.memWrite (s : State) (a : Nat) (v : List Byte) : State := { s with mem := writeBytes s.mem a v }

/-- A memory whose admitted bytes of a range have taken free values: byte `i` of the range takes draw `d + i`. -/
def freeBytes (p : Params) (m : Memory) (d a : Nat) : Nat → Memory
  | 0 => m
  | n + 1 => freeBytes p (if memAdmit p a then writeByte m a (Config.freeByte d) else m) (d + 1) (a + 1) n

/-- "The admitted bytes of the range take any value" (60_exceptions.md R264, 70_reset_and_hazards.md R303;
assumption 5). -/
def State.scribble (s : State) (a n : Nat) : State :=
  { s with mem := freeBytes s.params s.mem s.draws a n, draws := s.draws + n }

/-- The CORE instances of the platform, in order of their number (60_exceptions.md R277). -/
def State.insts (s : State) : List Inst := s.before ++ s.core :: s.after

/-- Instance number `k` brought into focus; none if the platform has no such instance (assumption 21). -/
def State.focus (s : State) (k : Nat) : Option State :=
  match s.insts.drop k with
  | [] => none
  | c :: rest => some { s with before := s.insts.take k, core := c, after := rest }

end Sys2Proof.Machine
end

