-- ==== Sys2Proof/Machine/Control.lean ====
section
/-! DEFINITION. The control commands and the doorbell (43_control.md R231, R234, R235). -/

namespace Sys2Proof.Machine

/-- ZEROIZE, the pseudocode of R235. -/
def zeroizeRule (s : State) : State :=
  let s := s.setCore { s.core with key := Vector.replicate 8 0, tag := Vector.replicate 4 0 }
  s.closeCtx.complete .none

/-- ZEROIZE (R235). -/
def execZeroize (s : State) : Host.Outcome State Fault Refusal := .next (zeroizeRule s)

/-- An illegal command word (R234): it completes with ILLEGAL_CMD and does nothing else. -/
def execIllegal (s : State) : Host.Outcome State Fault Refusal := .next (s.complete .illegalCmd)

/-- The registers of an instance after an accepted doorbell (R231), and the command's ranges claimed from now on
(20_memory.md R76; assumption 6). -/
def ringDoorbell (v : Word) (c : Inst) : Inst :=
  { c with cmd := v, done := false, errcode := 0, busy := true,
           claimReads := wordReadRanges v c ++ c.claimReads, claimWrites := wordWriteRanges v c ++ c.claimWrites }

/-- Acknowledging a completion, `ACK` (60_exceptions.md R271; 30_encoding.md R96): what stands for a return from an
exception on this hardware. -/
def acknowledge (c : Inst) : Inst := writeStatus 0x00000002 c

end Sys2Proof.Machine
end

