-- ==== Sys2Proof/Machine/Registers.lean ====
section
/-! DEFINITION. The register map of 10_state.md R23: the names and where they stand. -/

namespace Sys2Proof.Machine

/-- The registers of R23's map: 26 operand registers and ID, CTRL, CMD, STATUS. R22 counts 27 and R20 counts 32; neither
names a register the map does not have. DESIGN CHOICE, assumption 23: the map is followed. -/
inductive Reg
  | id | ctrl | cmd | status
  | key (i : Fin 8) | nonce (j : Fin 3) | counter
  | srcLo | srcHi | dstLo | dstHi | lenLo | lenHi | aadLo | aadHi | aadlenLo | aadlenHi
  | tag (k : Fin 4)
deriving DecidableEq, Repr

/-- The offset of a register in its block (R23). -/
def regOffset : Reg → Nat
  | .id => 0x000
  | .ctrl => 0x004
  | .cmd => 0x008
  | .status => 0x00C
  | .key i => 0x020 + 4 * i.val
  | .nonce j => 0x040 + 4 * j.val
  | .counter => 0x04C
  | .srcLo => 0x050
  | .srcHi => 0x054
  | .dstLo => 0x058
  | .dstHi => 0x05C
  | .lenLo => 0x060
  | .lenHi => 0x064
  | .aadLo => 0x068
  | .aadHi => 0x06C
  | .aadlenLo => 0x070
  | .aadlenHi => 0x074
  | .tag k => 0x080 + 4 * k.val

/-- The register at an aligned offset; none at a reserved offset (R23, R32). -/
def regAt (off : Nat) : Option Reg :=
  match off with
  | 0x000 => some .id
  | 0x004 => some .ctrl
  | 0x008 => some .cmd
  | 0x00C => some .status
  | 0x020 => some (.key 0)
  | 0x024 => some (.key 1)
  | 0x028 => some (.key 2)
  | 0x02C => some (.key 3)
  | 0x030 => some (.key 4)
  | 0x034 => some (.key 5)
  | 0x038 => some (.key 6)
  | 0x03C => some (.key 7)
  | 0x040 => some (.nonce 0)
  | 0x044 => some (.nonce 1)
  | 0x048 => some (.nonce 2)
  | 0x04C => some .counter
  | 0x050 => some .srcLo
  | 0x054 => some .srcHi
  | 0x058 => some .dstLo
  | 0x05C => some .dstHi
  | 0x060 => some .lenLo
  | 0x064 => some .lenHi
  | 0x068 => some .aadLo
  | 0x06C => some .aadHi
  | 0x070 => some .aadlenLo
  | 0x074 => some .aadlenHi
  | 0x080 => some (.tag 0)
  | 0x084 => some (.tag 1)
  | 0x088 => some (.tag 2)
  | 0x08C => some (.tag 3)
  | _ => none

/-- The size of a register block, 4 KiB (R23). -/
def blockSize : Nat := 0x1000

/-- ID's constant value (R24). -/
def idValue : Word := 0x00078439

end Sys2Proof.Machine
end

