-- ==== Sys2Proof/Machine/HostAccess.lean ====
section
/-! DEFINITION. Host access to the register block (43_control.md R236, R237, R238) and host and platform access to data
memory under the busy rule (20_memory.md R60, R76, R82). -/

namespace Sys2Proof.Machine

/-- A host register read at an aligned offset (43_control.md R237). -/
def regRead (off : Nat) (c : Inst) : Word :=
  match regAt off with
  | none => 0
  | some .id => idValue
  | some .ctrl => ctrlWord c
  | some .cmd => c.cmd
  | some .status => statusWord c
  | some (.key _) => 0
  | some (.nonce j) => c.nonce[j]
  | some .counter => c.counter
  | some .srcLo => c.src.lo
  | some .srcHi => c.src.hi
  | some .dstLo => c.dst.lo
  | some .dstHi => c.dst.hi
  | some .lenLo => c.len.lo
  | some .lenHi => c.len.hi
  | some .aadLo => c.aad.lo
  | some .aadHi => c.aad.hi
  | some .aadlenLo => c.aadlen.lo
  | some .aadlenHi => c.aadlen.hi
  | some (.tag k) => c.tag[k]

/-- A host write to a register that takes it, while idle (43_control.md R236): a COUNTER write also clears CTR_EXH
(10_state.md R29). ID, CTRL, CMD and STATUS have writes of their own. -/
def storeReg (r : Reg) (v : Word) (c : Inst) : Inst :=
  match r with
  | .key i => { c with key := c.key.set i v }
  | .nonce j => { c with nonce := c.nonce.set j v }
  | .counter => { c with counter := v, ctrExh := false }
  | .srcLo => { c with src := { c.src with lo := v } }
  | .srcHi => { c with src := { c.src with hi := v } }
  | .dstLo => { c with dst := { c.dst with lo := v } }
  | .dstHi => { c with dst := { c.dst with hi := v } }
  | .lenLo => { c with len := { c.len with lo := v } }
  | .lenHi => { c with len := { c.len with hi := v } }
  | .aadLo => { c with aad := { c.aad with lo := v } }
  | .aadHi => { c with aad := { c.aad with hi := v } }
  | .aadlenLo => { c with aadlen := { c.aadlen with lo := v } }
  | .aadlenHi => { c with aadlen := { c.aadlen with hi := v } }
  | .tag k => { c with tag := c.tag.set k v }
  | .id => c
  | .ctrl => c
  | .cmd => c
  | .status => c

/-- A frozen register (10_state.md R23, R40). -/
def isFrozen : Reg → Bool
  | .id => false
  | .ctrl => false
  | .status => false
  | _ => true

/-- The registers of an instance after a host register write other than an accepted doorbell (43_control.md R236; the
drop of 10_state.md R42). -/
def regWrite (off : Nat) (v : Word) (c : Inst) : Inst :=
  match regAt off with
  | none => c
  | some .id => c
  | some .ctrl => { c with irqEn := v.getLsbD 0 }
  | some .status => writeStatus v c
  | some r => if c.busy then { c with overrun := true } else storeReg r v c

/-- Two claims conflict: a write range of one meets a range of the other (20_memory.md R82). -/
def claimsMeet (reads writes : List Range) (o : Inst) : Bool :=
  (writes.any fun w => (o.claimReads ++ o.claimWrites).any fun x => !disjoint w x)
    || o.claimWrites.any fun w => reads.any fun x => !disjoint w x

/-- A command word written to CMD of the instance in focus (43_control.md R231; dropped while busy, 10_state.md R26,
R42). A launch whose ranges meet another instance's claims is refused (20_memory.md R82; assumption 7). -/
def writeCmd (v : Word) (s : State) : Host.Outcome State Fault Refusal :=
  if s.core.busy then .next (s.setCore { s.core with overrun := true })
  else if (s.before ++ s.after).any (claimsMeet (wordReadRanges v s.core) (wordWriteRanges v s.core)) then
    .fault .launchRace
  else .next (s.setCore (ringDoorbell v s.core))

/-- A 32-bit host write at an aligned offset of the instance in focus (43_control.md R236). A CORE held in reset keeps its
reset values, so the write reaches nothing (70_reset_and_hazards.md R300; assumption 10). -/
def hostRegWrite (off : Nat) (v : Word) (s : State) : Host.Outcome State Fault Refusal :=
  if s.core.held then .next s
  else if regAt off = some .cmd then writeCmd v s
  else .next (s.setCore (regWrite off v s.core))

/-- A host variable set (30_encoding.md R95). -/
def State.setVar (s : State) (x : Nat) (v : Word) : State :=
  { s with host := { s.host with vars := (x, v) :: s.host.vars.filter fun p => decide (p.1 ≠ x) } }

/-- A host variable read; one that was never set reads 0 (assumption 14). -/
def getVar (h : HostAgent) (x : Nat) : Word :=
  match h.vars.find? fun p => p.1 == x with
  | some p => p.2
  | none => 0

/-- The claims of an instance dropped: the host has observed the completion (20_memory.md R76). -/
def unclaim (c : Inst) : Inst := { c with claimReads := [], claimWrites := [] }

/-- A 32-bit host read at an aligned offset of the instance in focus into a host variable (43_control.md R237). A
STATUS read with BUSY = 0 observes the completion (20_memory.md R76). -/
def hostRegRead (off : Nat) (x : Nat) (s : State) : State :=
  let s' := s.setVar x (regRead off s.core)
  if regAt off = some .status ∧ s.core.busy = false then s'.setCore (unclaim s'.core) else s'

/-- The number of the instance whose register block holds a host address (10_state.md R23). -/
def instAt (addr : Nat) : List Inst → Option Nat
  | [] => none
  | c :: cs =>
    if c.base ≤ addr ∧ addr < c.base + blockSize then some 0
    else match instAt addr cs with
      | some k => some (k + 1)
      | none => none

/-- The instance a host address belongs to brought into focus. -/
def State.focusAddr (s : State) (addr : Nat) : Option State :=
  match instAt addr s.insts with
  | some k => s.focus k
  | none => none

/-- A register access has the right width and alignment (20_memory.md R71). -/
def regAccessOk (off bytes : Nat) : Bool := bytes == 4 && off % 4 == 0

/-- A host register write transaction at a host address (43_control.md R236, R238). -/
def busWrite (addr bytes : Nat) (v : Word) (s : State) : Host.Outcome State Fault Refusal :=
  match s.focusAddr addr with
  | none => .refused .noRegisterBlock
  | some s =>
    if regAccessOk (addr - s.core.base) bytes then hostRegWrite (addr - s.core.base) v s else .fault .hostAccess

/-- A host register read transaction at a host address (43_control.md R237, R238). -/
def busRead (addr bytes x : Nat) (s : State) : Host.Outcome State Fault Refusal :=
  match s.focusAddr addr with
  | none => .refused .noRegisterBlock
  | some s =>
    if regAccessOk (addr - s.core.base) bytes then .next (hostRegRead (addr - s.core.base) x s)
    else .fault .hostAccess

/-- The byte lies in a range some instance claims (20_memory.md R76). -/
def claimed (s : State) (a : Nat) : Bool :=
  s.insts.any fun c => (c.claimReads ++ c.claimWrites).any fun x => inSpan x a

/-- Why a data access by an agent other than the engine stops, if it does (20_memory.md R60, R65, R76;
assumption 12). That a byte MemAdmit denies to the CORE is no ordinary memory for the other agents either is the model's
choice: R75 lets the platform protect memory from the CORE through MemAdmit, and such a byte may be theirs to use
(DESIGN CHOICE, assumption 12). -/
def dataAccessStop (s : State) (a : Nat) : Option (Fault ⊕ Refusal) :=
  if 2 ^ s.params.paW ≤ a then some (.inl .noSuchAddress)
  else if !memAdmit s.params a then some (.inr .notOrdinaryMemory)
  else if claimed s a then some (.inl .bufferRace)
  else none

/-- A data access by an agent other than the engine, with the state it leaves if nothing stops it. -/
def dataAccess (s : State) (a : Nat) (t : State) : Host.Outcome State Fault Refusal :=
  match dataAccessStop s a with
  | some (.inl f) => .fault f
  | some (.inr r) => .refused r
  | none => .next t

/-- The byte of data memory as a host variable's word, zero-extended (assumption 14). -/
def byteWord (b : Byte) : Word := b.setWidth 32

/-- A data read by the host into a variable (00_scope.md R18). -/
def loadByte (a x : Nat) (s : State) : Host.Outcome State Fault Refusal :=
  dataAccess s a (s.setVar x (byteWord (readByte s.mem a)))

/-- A data write by the host or another bus agent (00_scope.md R18, 20_memory.md R60). -/
def storeByte (a : Nat) (v : Byte) (s : State) : Host.Outcome State Fault Refusal :=
  dataAccess s a (s.memWrite a [v])

/-- A data read by another bus agent (20_memory.md R60). -/
def probeByte (a : Nat) (s : State) : Host.Outcome State Fault Refusal := dataAccess s a s

/-- The host samples the IRQ of instance `k` into a variable; seeing 1 observes the completion (20_memory.md R76,
60_exceptions.md R266; assumption 8). -/
def sampleIrq (k x : Nat) (s : State) : Host.Outcome State Fault Refusal :=
  match s.focus k with
  | none => .refused .noSuchInstance
  | some s =>
    let s' := s.setVar x (BitVec.setWidth 32 (BitVec.ofBool (irqLevel s.core)))
    .next (if irqLevel s.core then s'.setCore (unclaim s'.core) else s')

end Sys2Proof.Machine
end

