-- ==== Sys2Proof/Machine/Assembler.lean ====
section
/-! DEFINITION. The spec's host assembly (30_encoding.md R95, R96): the machine statements and pseudo-instructions as
host statements for an instance at a base address, and the host's step. -/

namespace Sys2Proof.Machine

/-- `WR <reg>, <imm32>`: one transaction `W offset(reg) imm32` (R95). -/
def asmWr (base : Nat) (r : Reg) (v : Word) : HostStmt := .write (base + regOffset r) 4 v

/-- `RD <reg> -> <var>`: one transaction `R offset(reg)` (R95). -/
def asmRd (base : Nat) (r : Reg) (x : Nat) : HostStmt := .read (base + regOffset r) 4 x

/-- `CMD <mnemonic>`: `W 0x008 word` (R95). -/
def asmCmd (base : Nat) (i : Instr) : HostStmt := asmWr base .cmd (encode i)

/-- `WR64 X, v` for the pair at registers `lo`, `hi` (R96). -/
def asmWr64 (base : Nat) (lo hi : Reg) (v : BitVec 64) : List HostStmt :=
  [asmWr base lo (v.extractLsb' 0 32), asmWr base hi (v.extractLsb' 32 32)]

/-- `LDKEY k` (R96). -/
def asmLdKey (base : Nat) (k : List Byte) : List HostStmt :=
  (List.finRange 8).map fun i => asmWr base (.key i) (le32At k i.val)

/-- `LDNONCE n` (R96). -/
def asmLdNonce (base : Nat) (n : List Byte) : List HostStmt :=
  (List.finRange 3).map fun j => asmWr base (.nonce j) (le32At n j.val)

/-- `LDTAG t` (R96). -/
def asmLdTag (base : Nat) (t : List Byte) : List HostStmt :=
  (List.finRange 4).map fun k => asmWr base (.tag k) (le32At t k.val)

/-- `WAIT`: poll STATUS until BUSY reads 0, with label `l` and variable `x` (R96). -/
def asmWait (base l x : Nat) : List HostStmt := [.label l, asmRd base .status x, .bnz x 0x1 l]

/-- `RUN m` (R96). -/
def asmRun (base : Nat) (i : Instr) (l x : Nat) : List HostStmt := asmCmd base i :: asmWait base l x

/-- `ACK` (R96). -/
def asmAck (base : Nat) : HostStmt := asmWr base .status 0x00000002

/-- The position of a label in a program (R95). Where the label stands more than once, as two literal expansions of R96's
WAIT would give, the spec does not say which is meant: DESIGN CHOICE, assumption 14, the first. -/
def labelPos (l : Nat) : List HostStmt → Option Nat
  | [] => none
  | st :: prog =>
    if st = .label l then some 0
    else match labelPos l prog with
      | some n => some (n + 1)
      | none => none

/-- The host's position set. -/
def State.setPos (s : State) (n : Nat) : State := { s with host := { s.host with pos := n } }

/-- `BNZ <var>, <mask>, <label>` (R95), the position already past it. -/
def runBnz (x : Nat) (mask : Word) (l : Nat) (s : State) : Host.Outcome State Fault Refusal :=
  if getVar s.host x &&& mask = 0 then .next s
  else match labelPos l s.host.prog with
    | some n => .next (s.setPos n)
    | none => .refused .noSuchLabel

/-- One host statement, the host's position already past it (R95, 00_scope.md R18). -/
def runStmt (st : HostStmt) (s : State) : Host.Outcome State Fault Refusal :=
  match st with
  | .write addr bytes v => busWrite addr bytes v s
  | .read addr bytes x => busRead addr bytes x s
  | .label _ => .next s
  | .bnz x mask l => runBnz x mask l s
  | .loadByte a x => loadByte a x s
  | .storeByte a v => storeByte a v s
  | .irq k x => sampleIrq k x s

/-- The host's step: its next statement; a host past the end of its program does nothing (00_scope.md R3). -/
def hostTurn (s : State) : Host.Outcome State Fault Refusal :=
  match s.host.prog.drop s.host.pos with
  | [] => .next s
  | st :: _ => runStmt st (s.setPos (s.host.pos + 1))

end Sys2Proof.Machine
end

