-- ==== Sys2Proof/Machine/Chacha20.lean ====
section
/-! DEFINITION. The ChaCha20 keystream engine: the algorithm (40_chacha20.md R110 to R120) and its two commands. -/

namespace Sys2Proof.Machine

/-- A 16-word state matrix, word `i` at row `i div 4`, column `i mod 4` (R111). It is local to one engine step
(10_state.md R44). -/
abbrev Matrix := Vector Word 16

/-- `Init(k, n, c)` (R110, R112). The constants K0..K3 are the spec's own, which it marks as general knowledge
(93 G1; assumption 22). -/
def chachaInit (k n : List Byte) (c : Word) : Matrix :=
  #v[0x61707865, 0x3320646e, 0x79622d32, 0x6b206574,
     le32At k 0, le32At k 1, le32At k 2, le32At k 3,
     le32At k 4, le32At k 5, le32At k 6, le32At k 7,
     c, le32At n 0, le32At n 1, le32At n 2]

/-- `QR(W, a, b, c, d)` (R113): four add-xor-rotate stages, in order. -/
def quarterRound (w : Matrix) (a b c d : Fin 16) : Matrix :=
  let w := w.set a (w[a] + w[b])
  let w := w.set d ((w[d] ^^^ w[a]).rotateLeft 16)
  let w := w.set c (w[c] + w[d])
  let w := w.set b ((w[b] ^^^ w[c]).rotateLeft 12)
  let w := w.set a (w[a] + w[b])
  let w := w.set d ((w[d] ^^^ w[a]).rotateLeft 8)
  let w := w.set c (w[c] + w[d])
  w.set b ((w[b] ^^^ w[c]).rotateLeft 7)

/-- The column round (R114). -/
def columnRound (w : Matrix) : Matrix :=
  let w := quarterRound w 0 4 8 12
  let w := quarterRound w 1 5 9 13
  let w := quarterRound w 2 6 10 14
  quarterRound w 3 7 11 15

/-- The diagonal round (R115). -/
def diagonalRound (w : Matrix) : Matrix :=
  let w := quarterRound w 0 5 10 15
  let w := quarterRound w 1 6 11 12
  let w := quarterRound w 2 7 8 13
  quarterRound w 3 4 9 14

/-- `n` double rounds, each a column round and then a diagonal round (R116). -/
def doubleRounds : Nat → Matrix → Matrix
  | 0, w => w
  | n + 1, w => doubleRounds n (diagonalRound (columnRound w))

/-- `Perm(X)`: ten double rounds (R116). -/
def chachaPerm (x : Matrix) : Matrix := doubleRounds 10 x

/-- `Block(k, n, c)`: 64 bytes of keystream (R118). -/
def chachaBlock (k n : List Byte) (c : Word) : List Byte :=
  let x := chachaInit k n c
  (Vector.zipWith (fun w v => w + v) (chachaPerm x) x).toList.flatMap ser32

/-- `ceil(L / 64)`, the number of keystream blocks for `L` bytes (R119). -/
def blockCount (len : Nat) : Nat := (len + 63) / 64

/-- `Block(k, n, c0) ++ … ++ Block(k, n, c0 + nb - 1)` (R119). -/
def blockRun (k n : List Byte) (c0 : Nat) : Nat → List Byte
  | 0 => []
  | nb + 1 => chachaBlock k n (BitVec.ofNat 32 c0) ++ blockRun k n (c0 + 1) nb

/-- `KS(k, n, c0, L)`: the first L bytes of the blocks (R119). -/
def keystream (k n : List Byte) (c0 len : Nat) : List Byte := (blockRun k n c0 (blockCount len)).take len

/-- `XorStream(k, n, c0, P)` (R119). -/
def xorStream (k n : List Byte) (c0 : Nat) (data : List Byte) : List Byte :=
  List.zipWith (fun x y => x ^^^ y) data (keystream k n c0 data.length)

/-- The logical counter written back: COUNTER and CTR_EXH (R120, R122). -/
def State.setCtr33 (s : State) (c : Nat) : State :=
  s.setCore { s.core with counter := BitVec.ofNat 32 (c % 2 ^ 32), ctrExh := c / 2 ^ 32 != 0 }

/-- CHACHA20_BLOCK, the pseudocode of R121. -/
def chacha20BlockRule (s : State) : State :=
  let c := ctr33 s.core
  let d := r64 s.core.dst
  if 2 ^ 32 < c + 1 then s.complete .counterRange
  else if !inRange s.params d 64 then s.complete .address
  else if !admitted s.params d 64 then (s.scribble d 64).complete .busError
  else
    (s.memWrite d (chachaBlock (keyBytes s.core) (nonceBytes s.core) (BitVec.ofNat 32 c))).complete .none

/-- CHACHA20_BLOCK (R121). -/
def execChacha20Block (s : State) : Host.Outcome State Fault Refusal := .next (chacha20BlockRule s)

/-- CHACHA20_XOR, the pseudocode of R122. -/
def chacha20XorRule (s : State) : State :=
  let l := r64 s.core.len
  let a := r64 s.core.src
  let d := r64 s.core.dst
  let nb := blockCount l
  let c := ctr33 s.core
  if 2 ^ 32 < c + nb then s.complete .counterRange
  else if !(inRange s.params a l && inRange s.params d l) then s.complete .address
  else if !(a == d || disjoint { addr := a, len := l } { addr := d, len := l }) then s.complete .overlap
  else if !(admitted s.params a l && admitted s.params d l) then (s.scribble d l).complete .busError
  else
    let input := s.memRead a l
    let s := s.memWrite d (xorStream (keyBytes s.core) (nonceBytes s.core) c input)
    (s.setCtr33 (c + nb)).complete .none

/-- CHACHA20_XOR (R122). -/
def execChacha20Xor (s : State) : Host.Outcome State Fault Refusal := .next (chacha20XorRule s)

end Sys2Proof.Machine
end

