-- ==== Sys2Proof/Machine/Poly1305.lean ====
section
/-! DEFINITION. The Poly1305 accelerator: the arithmetic (41_poly1305.md R150 to R157), over integers (R164), and its
four commands. -/

namespace Sys2Proof.Machine

/-- The prime `p = 2^130 - 5` (R152). -/
def polyP : Nat := 2 ^ 130 - 5

/-- `Clamp` (R151). The mask is the spec's own, which it marks as general knowledge (93 G6; assumption 22). -/
def clamp (r : Half) : Half := r &&& 0x0ffffffc0ffffffc0ffffffc0fffffff

/-- The multiplier of a 32-byte one-time key, clamped (R150, R151). -/
def keyR (k : List Byte) : Half := clamp (BitVec.ofNat 128 (leNat (k.take 16)))

/-- The mask of a 32-byte one-time key (R150). -/
def keyS (k : List Byte) : Half := BitVec.ofNat 128 (leNat ((k.drop 16).take 16))

/-- `N(b) = LEn(b) + 2^(8 len(b))` (R153). -/
def blockNumber (b : List Byte) : Nat := leNat b + 2 ^ (8 * b.length)

/-- `acc <- ((acc + N(b)) * r) mod p` (R154). -/
def accStep (r : Half) (acc : Nat) (b : List Byte) : Nat := ((acc + blockNumber b) * r.toNat) % polyP

/-- The blocks of a message: 16 bytes each, the last 1 to 16 (R153). -/
def polyBlocks (m : List Byte) : List (List Byte) :=
  (List.range ((m.length + 15) / 16)).map fun i => (m.drop (16 * i)).take 16

/-- `ser128((acc + s) mod 2^128)` (R155). -/
def finalTag (acc : Nat) (s : Half) : List Byte := serNat 16 ((acc + s.toNat) % 2 ^ 128)

/-- `Poly1305(k, m)` (R156). -/
def poly1305 (k m : List Byte) : List Byte :=
  finalTag ((polyBlocks m).foldl (accStep (keyR k)) 0) (keyS k)

/-- Take `q` full blocks off a byte string, accumulating each; what remains is left over (R157). -/
def absorbFull (r : Half) : Nat → Nat → List Byte → Nat × List Byte
  | 0, acc, b => (acc, b)
  | q + 1, acc, b => absorbFull r q (accStep r acc (b.take 16)) (b.drop 16)

/-- `Absorb(d)` (R157): every full block of `pbuf ++ d`, the rest kept. -/
def absorb (x : PolyCtx) (d : List Byte) : PolyCtx :=
  let b := x.pbuf ++ d
  let y := absorbFull x.r (b.length / 16) x.acc b
  { x with acc := y.1, pbuf := y.2 }

/-- `Final()` (R157): the partial block, then the tag. -/
def finalOf (x : PolyCtx) : List Byte :=
  finalTag (if x.pbuf.length = 0 then x.acc else accStep x.r x.acc x.pbuf) x.s

/-- The context INIT opens with a one-time key (R159). -/
def openCtx (k : List Byte) : PolyCtx := { valid := true, r := keyR k, s := keyS k, acc := 0, pbuf := [] }

/-- The Poly1305 context replaced. -/
def State.setCtx (s : State) (x : PolyCtx) : State := s.setCore { s.core with ctx := x }

/-- POLY1305_INIT, the pseudocode of R159. -/
def poly1305InitRule (s : State) : State :=
  (s.closeCtx.setCtx (openCtx (keyBytes s.core))).complete .none

/-- POLY1305_INIT (R159). -/
def execPoly1305Init (s : State) : Host.Outcome State Fault Refusal := .next (poly1305InitRule s)

/-- POLY1305_UPDATE, the pseudocode of R160. -/
def poly1305UpdateRule (s : State) : State :=
  let l := r64 s.core.len
  let a := r64 s.core.src
  if !s.core.ctx.valid then s.complete .noContext
  else if !inRange s.params a l then s.complete .address
  else if !admitted s.params a l then s.closeCtx.complete .busError
  else (s.setCtx (absorb s.core.ctx (s.memRead a l))).complete .none

/-- POLY1305_UPDATE (R160). -/
def execPoly1305Update (s : State) : Host.Outcome State Fault Refusal := .next (poly1305UpdateRule s)

/-- POLY1305_FINISH, the pseudocode of R161. -/
def poly1305FinishRule (s : State) : State :=
  if !s.core.ctx.valid then s.complete .noContext
  else (s.setTag (finalOf s.core.ctx)).closeCtx.complete .none

/-- POLY1305_FINISH (R161). -/
def execPoly1305Finish (s : State) : Host.Outcome State Fault Refusal := .next (poly1305FinishRule s)

/-- POLY1305_AUTH, the pseudocode of R162. -/
def poly1305AuthRule (s : State) : State :=
  let l := r64 s.core.len
  let a := r64 s.core.src
  if !inRange s.params a l then s.complete .address
  else if !admitted s.params a l then s.closeCtx.complete .busError
  else (s.closeCtx.setTag (poly1305 (keyBytes s.core) (s.memRead a l))).complete .none

/-- POLY1305_AUTH (R162). -/
def execPoly1305Auth (s : State) : Host.Outcome State Fault Refusal := .next (poly1305AuthRule s)

end Sys2Proof.Machine
end

