-- ==== Sys2Proof/Machine/Aead.lean ====
section
/-! DEFINITION. The AEAD composition controller: the composition (42_aead.md R190 to R193, R195) and its two
commands. The one-time key and the computed tag of a decryption are local to the step (10_state.md R45, R197). -/

namespace Sys2Proof.Machine

/-- `OTK(k, n)`: the first 32 bytes of block 0 (R190). -/
def oneTimeKey (k n : List Byte) : List Byte := (chachaBlock k n 0).take 32

/-- `pad16(x)` (R192). -/
def pad16 (x : Nat) : Nat := (16 - x % 16) % 16

/-- `zeros(n)` (00_scope.md R9). -/
def zeroBytes (n : Nat) : List Byte := List.replicate n 0

/-- `MacData(ad, ct)` (R192). -/
def macData (ad ct : List Byte) : List Byte :=
  ad ++ zeroBytes (pad16 ad.length) ++ ct ++ zeroBytes (pad16 ct.length) ++ serNat 8 ad.length ++ serNat 8 ct.length

/-- The tag of a ciphertext and associated data (R194 and R196, `Poly1305(otk, MacData(ad, ct))`). -/
def aeadTag (k n ad ct : List Byte) : List Byte := poly1305 (oneTimeKey k n) (macData ad ct)

/-- `CtEqual16(x, y)` (R195). -/
def ctEqual16 (x y : List Byte) : Bool := x == y

/-- The largest AEAD length, `2^38 - 64` (R193). -/
def aeadMaxLen : Nat := 2 ^ 38 - 64

/-- AEAD_ENCRYPT, the pseudocode of R194. -/
def aeadEncryptRule (s : State) : State :=
  let l := r64 s.core.len
  let al := r64 s.core.aadlen
  let sa := r64 s.core.src
  let aa := r64 s.core.aad
  let d := r64 s.core.dst
  let w : Range := { addr := d, len := l + 16 }
  if aeadMaxLen < l then s.complete .length
  else if !(inRange s.params sa l && inRange s.params d (l + 16) && inRange s.params aa al) then s.complete .address
  else if !((sa == d || disjoint { addr := sa, len := l } w) && disjoint { addr := aa, len := al } w) then
    s.complete .overlap
  else
    let s := s.closeCtx
    if !(admitted s.params sa l && admitted s.params aa al && admitted s.params d (l + 16)) then
      (s.scribble d (l + 16)).complete .busError
    else
      let k := keyBytes s.core
      let n := nonceBytes s.core
      let pt := s.memRead sa l
      let ad := s.memRead aa al
      let ct := xorStream k n 1 pt
      let t := aeadTag k n ad ct
      ((s.memWrite d (ct ++ t)).setTag t).complete .none

/-- AEAD_ENCRYPT (R194). -/
def execAeadEncrypt (s : State) : Host.Outcome State Fault Refusal := .next (aeadEncryptRule s)

/-- AEAD_DECRYPT, the pseudocode of R196, line by line. Nothing is written before the comparison has succeeded (R197).
The context is closed before AUTH_FAIL, as R196 and 41_poly1305.md R163 state and the order of the pseudocode gives
(00_scope.md R16). 60_exceptions.md R262 says otherwise and the spec rules on it nowhere: DEDUCED, assumption 20. -/
def aeadDecryptRule (s : State) : State :=
  let l := r64 s.core.len
  let al := r64 s.core.aadlen
  let sa := r64 s.core.src
  let aa := r64 s.core.aad
  let d := r64 s.core.dst
  let w : Range := { addr := d, len := l }
  if aeadMaxLen < l then s.complete .length
  else if !(inRange s.params sa l && inRange s.params d l && inRange s.params aa al) then s.complete .address
  else if !((sa == d || disjoint { addr := sa, len := l } w) && disjoint { addr := aa, len := al } w) then
    s.complete .overlap
  else
    let s := s.closeCtx
    if !(admitted s.params sa l && admitted s.params aa al) then s.complete .busError
    else
      let k := keyBytes s.core
      let n := nonceBytes s.core
      let ct := s.memRead sa l
      let ad := s.memRead aa al
      if !ctEqual16 (aeadTag k n ad ct) (tagBytes s.core) then s.complete .authFail
      else if !admitted s.params d l then (s.scribble d l).complete .busError
      else (s.memWrite d (xorStream k n 1 ct)).complete .none

/-- AEAD_DECRYPT (R196). -/
def execAeadDecrypt (s : State) : Host.Outcome State Fault Refusal := .next (aeadDecryptRule s)

end Sys2Proof.Machine
end

