-- ==== Sys2Proof/Machine/Dispatch.lean ====
section
/-! DEFINITION. The meaning of each command, one arm per constructor (43_control.md R232). -/

namespace Sys2Proof.Machine

def exec (i : Instr) (s : State) : Host.Outcome State Fault Refusal :=
  match i with
  | .chacha20Block => Sys2Proof.Machine.execChacha20Block s
  | .chacha20Xor => Sys2Proof.Machine.execChacha20Xor s
  | .poly1305Init => Sys2Proof.Machine.execPoly1305Init s
  | .poly1305Update => Sys2Proof.Machine.execPoly1305Update s
  | .poly1305Finish => Sys2Proof.Machine.execPoly1305Finish s
  | .poly1305Auth => Sys2Proof.Machine.execPoly1305Auth s
  | .aeadEncrypt => Sys2Proof.Machine.execAeadEncrypt s
  | .aeadDecrypt => Sys2Proof.Machine.execAeadDecrypt s
  | .zeroize => Sys2Proof.Machine.execZeroize s

end Sys2Proof.Machine
end

