-- ==== Sys2Proof/Machine/Engine.lean ====
section
/-! DEFINITION. The engine's step (43_control.md R232). -/

namespace Sys2Proof.Machine

/-- The engine step of the instance in focus: while BUSY it runs the pending command whole; an illegal word completes
with ILLEGAL_CMD (R234); while idle the engine takes no step (R232, 60_exceptions.md R278). A CORE held in reset is idle
(70_reset_and_hazards.md R300, R302; `Inst.HeldOk`). -/
def engineTurn (s : State) : Host.Outcome State Fault Refusal :=
  if s.core.busy then
    match decode s.core.cmd with
    | .ok i => exec i s
    | .error _ => execIllegal s
  else .next s

end Sys2Proof.Machine
end

