-- ==== Sys2Proof/Machine/Platform.lean ====
section
/-! DEFINITION. Reset (70_reset_and_hazards.md R300 to R304) and power-up (60_exceptions.md R278). -/

namespace Sys2Proof.Machine

/-- The free bytes a reset leaves in the given write ranges (R303). -/
def scribbleAll : List Range → State → State
  | [], s => s
  | x :: xs, s => scribbleAll xs (s.scribble x.addr x.len)

/-- The registers and hidden state of an instance after a reset (R301, R302); BASE and the level of the reset input are
the platform's and stay. -/
def Inst.resetRegs (c : Inst) : Inst := { Inst.reset c.base with held := c.held }

/-- A reset of the instance in focus: every register as R301 and R302 say; a pending command is abandoned and the
admitted bytes of its write range take any value (R303); nothing else changes (R304; assumption 9). -/
def resetInst (s : State) : State :=
  let s' := if s.core.busy then scribbleAll (wordWriteRanges s.core.cmd s.core) s else s
  s'.setCore s.core.resetRegs

/-- The level of the reset input of the instance in focus. -/
def State.setHeld (s : State) (b : Bool) : State := s.setCore { s.core with held := b }

/-- The reset input asserted: the reset of R301 to R304, and the CORE is held in it (R300). A held CORE stands at its
reset values, so its engine has no step; a host register write reaches nothing (assumption 10). -/
def assertReset (s : State) : State := (resetInst s).setHeld true

/-- The reset input released: the CORE goes on from its reset values (R300). -/
def releaseReset (s : State) : State := s.setHeld false

/-- Memory with the given contents: the admitted ones among them, in canonical form. -/
def loadCells (p : Params) : List (Nat × BitVec 8) → Memory → Memory
  | [], m => m
  | c :: cells, m => loadCells p cells (if memAdmit p c.1 then writeByte m c.1 c.2 else m)

/-- Power-up: every instance is reset and data memory holds any contents, here the ones given (60_exceptions.md R278,
93 I8; assumption 11). -/
def powerUp (cells : List (Nat × BitVec 8)) (s : State) : State :=
  { s with before := s.before.map Inst.resetRegs, core := s.core.resetRegs, after := s.after.map Inst.resetRegs,
           mem := loadCells s.params cells [] }

end Sys2Proof.Machine
end

