-- ==== Sys2Proof/Machine/Schedule.lean ====
section
/-! DEFINITION. Whose step comes next (60_exceptions.md R269; assumption 1). -/

namespace Sys2Proof.Machine

/-- A turn of instance number `k`. -/
def withInst (k : Nat) (s : State) (f : State → Host.Outcome State Fault Refusal) :
    Host.Outcome State Fault Refusal :=
  match s.focus k with
  | none => .refused .noSuchInstance
  | some s' => f s'

/-- One scheduled turn. -/
def runTurn (t : Turn) (s : State) : Host.Outcome State Fault Refusal :=
  match t with
  | .host => hostTurn s
  | .engine k => withInst k s engineTurn
  | .assertReset k => withInst k s fun s' => .next (assertReset s')
  | .releaseReset k => withInst k s fun s' => .next (releaseReset s')
  | .powerUp cells => .next (powerUp cells s)
  | .platformRead a => probeByte a s
  | .platformWrite a v => storeByte a v s

/-- The number of the first busy instance. -/
def firstBusy : List Inst → Option Nat
  | [] => none
  | c :: cs =>
    if c.busy then some 0
    else match firstBusy cs with
      | some k => some (k + 1)
      | none => none

/-- The step when no turn is scheduled: the engine in focus if its command is pending, else the first engine with one,
else the host; the engine's step is then always taken (43_control.md R232's fairness). DESIGN CHOICE, assumption 1. -/
def unscheduledTurn (s : State) : Host.Outcome State Fault Refusal :=
  if s.core.busy then engineTurn s
  else match firstBusy s.insts with
    | some k => withInst k s engineTurn
    | none => hostTurn s

/-- The machine's step: the next scheduled turn, or the unscheduled one. -/
def nextTurn (s : State) : Host.Outcome State Fault Refusal :=
  match s.turns with
  | [] => unscheduledTurn s
  | t :: rest => runTurn t { s with turns := rest }

/-- A command word made pending at the instance in focus, idle and its reset input released, as an accepted doorbell makes
it (43_control.md R231), with no turn scheduled, so that the next step is its engine step. -/
def State.pending (s : State) (v : Word) : State :=
  { s with core := ringDoorbell v { s.core with busy := false, held := false }, turns := [] }

end Sys2Proof.Machine
end

