-- ==== Sys2Proof/Machine/Step.lean ====
section
/-! DEFINITION. One step of the machine, and where a command word stands for the next step to run it. -/

namespace Sys2Proof.Machine

/-- One step (00_scope.md R18; 60_exceptions.md R269). -/
def step (s : State) : Host.Outcome State Fault Refusal := nextTurn s

/-- The state in which the next step runs the command word of the table's row: this hardware fetches nothing, and a
doorbell write of the word to CMD is what makes it run (10_state.md R21, 43_control.md R231; assumption 15). -/
def State.withFetchWord (s : State) (nbits w : Nat) : State := s.pending (BitVec.ofNat 32 (w % 2 ^ nbits))

end Sys2Proof.Machine
end

