-- ==== Sys2Proof/Safety.lean ====
section
/-! DEFINITION. What a good state and a safe run are, in the terms the statements use. -/

namespace Sys2Proof.Machine

/-- The invariant of the Poly1305 context (10_state.md R43): r clamped, acc reduced, 0..15 buffered bytes, and
everything zero while closed. -/
def PolyCtx.Ok (x : PolyCtx) : Prop :=
  clamp x.r = x.r ∧ x.acc < polyP ∧ x.pbuf.length < 16 ∧
    (x.valid = false → x.r = 0 ∧ x.s = 0 ∧ x.acc = 0 ∧ x.pbuf = [])

/-- The STATUS fields agree with each other: DONE and BUSY never together (10_state.md R36), an error record only
with DONE (R37, R41), no reserved error code (60_exceptions.md R260), COUNTER zero at the exhausted counter (R39). -/
def Inst.StatusOk (c : Inst) : Prop :=
  ¬(c.busy = true ∧ c.done = true) ∧ (c.done = false → c.errcode = 0) ∧ c.errcode.toNat ≤ 8 ∧
    (c.ctrExh = true → c.counter = 0)

/-- While a command is pending its ranges are claimed (20_memory.md R76; the model's bookkeeping, assumption 6). -/
def Inst.ClaimsOk (c : Inst) : Prop :=
  c.busy = true → (∀ x ∈ wordReadRanges c.cmd c, x ∈ c.claimReads) ∧ ∀ x ∈ wordWriteRanges c.cmd c, x ∈ c.claimWrites

/-- While its reset input is asserted a CORE stands at its reset values, with nothing pending and nothing claimed
(70_reset_and_hazards.md R300, R301, R302). -/
def Inst.HeldOk (c : Inst) : Prop := c.held = true → c = c.resetRegs

/-- The invariant of one instance. -/
def Inst.Ok (c : Inst) : Prop := c.ctx.Ok ∧ c.StatusOk ∧ c.ClaimsOk ∧ c.HeldOk

/-- The invariant of the machine: legal parameters and bases (00_scope.md R7), every instance good, data memory in
canonical form and only at admitted addresses (20_memory.md R65; assumption 12). -/
def State.Inv (s : State) : Prop :=
  s.params.wf = true ∧ basesWf (s.insts.map fun c => c.base) = true ∧ (∀ c ∈ s.insts, c.Ok) ∧
    s.mem.wf = true ∧ ∀ cell ∈ s.mem, memAdmit s.params cell.1 = true

/-- No two instances claim ranges that meet where one writes (20_memory.md R82). -/
def State.LaunchesApart (s : State) : Prop :=
  s.insts.Pairwise fun c d => claimsMeet c.claimReads c.claimWrites d = false

/-- What a host access can see of an instance (10_state.md R50): KEY, and the context's r, s, acc and buffered bytes,
blanked; ctx_valid and the number of buffered bytes stay (R38). -/
def Inst.visible (c : Inst) : Inst :=
  { c with key := Vector.replicate 8 0,
           ctx := { valid := c.ctx.valid, r := 0, s := 0, acc := 0, pbuf := List.replicate c.ctx.pbuf.length 0 } }

/-- The machine with the secrets of every instance blanked. -/
def State.visible (s : State) : State :=
  { s with before := s.before.map Inst.visible, core := s.core.visible, after := s.after.map Inst.visible }

/-- The outcome of a step with the secrets of the next state blanked. -/
def visibleOutcome : Host.Outcome State Fault Refusal → Host.Outcome State Fault Refusal
  | .next s => .next s.visible
  | .fault f => .fault f
  | .refused r => .refused r

/-- The instance after a completion with error number `e` and no other effect (43_control.md R233). -/
def Inst.ended (c : Inst) (e : BitVec 4) : Inst := { c with errcode := e, busy := false, done := true }

/-- A range check passes (20_memory.md R64). -/
def RangeOk (p : Params) (a n : Nat) : Prop := n = 0 ∨ a + n ≤ 2 ^ p.paW

/-- Every byte of a range is admitted (20_memory.md R65). -/
def AllAdmitted (p : Params) (a n : Nat) : Prop := ∀ i, i < n → memAdmit p (a + i) = true

/-- Two ranges are disjoint (20_memory.md R66). -/
def Apart (a n b k : Nat) : Prop := n = 0 ∨ k = 0 ∨ a + n ≤ b ∨ b + k ≤ a

/-- `m'` is `m` with the byte string `v` written at `a` and no other byte changed (20_memory.md R63). -/
def Wrote (m m' : Memory) (a : Nat) (v : List Byte) : Prop :=
  ∀ x, readByte m' x = if a ≤ x ∧ x < a + v.length then v.getD (x - a) 0 else readByte m x

/-- `m'` differs from `m` at most in the admitted bytes of a range (60_exceptions.md R264). -/
def FreeOnlyIn (p : Params) (m m' : Memory) (a n : Nat) : Prop :=
  ∀ x, x < a ∨ a + n ≤ x ∨ memAdmit p x = false → readByte m' x = readByte m x

/-- A run of `n` steps that meets no fault and no refusal (60_exceptions.md R265: "a claim about a program must show
the program never does them"). -/
def SafeFor : Nat → State → Prop
  | 0, _ => True
  | n + 1, s => ∃ t, step s = .next t ∧ SafeFor n t

end Sys2Proof.Machine
end

