-- ==== Sys2Proof/Certificates/Slice0/Obligations.lean ====
section
/-! DEFINITION. The statements for the provers. Each names the rule of spec/ it formalises; "the model's own" marks a
clause that rests on a log entry. -/

open Sys2Proof Sys2Proof.Machine

/-! ## Encoding -/

/-- 30_encoding.md R91: the opcode map, each command word written out. -/
def Obligations.OpcodeMapWordsDecode : Prop :=
  decode 0x00000001 = .ok .chacha20Block ∧ decode 0x00000002 = .ok .chacha20Xor ∧
  decode 0x00000010 = .ok .poly1305Init ∧ decode 0x00000011 = .ok .poly1305Update ∧
  decode 0x00000012 = .ok .poly1305Finish ∧ decode 0x00000013 = .ok .poly1305Auth ∧
  decode 0x00000020 = .ok .aeadEncrypt ∧ decode 0x00000021 = .ok .aeadDecrypt ∧ decode 0x00000030 = .ok .zeroize

/-- 30_encoding.md R90 and R94: over all 2^32 words, the decoder gives a command exactly at that command's own word, and
every other word is rejected, under the name of its defect. -/
def Obligations.DecodeAndEncodeAgreeOnEveryWord : Prop :=
  (∀ (w : Word) (i : Instr), decode w = .ok i ↔ w = encode i) ∧
  (∀ w : Word, decode w = .error .reservedBits ↔ 2 ^ 8 ≤ w.toNat) ∧
  (∀ w : Word, decode w = .error .unassignedOpcode ↔ w.toNat < 2 ^ 8 ∧ ∀ i, w ≠ encode i) ∧
  ∀ w : Word, cmdWordWf w = true ↔ ∃ i, w = encode i

/-! ## Which instruction a step runs -/

/-- What a step does with the next scheduled turn; that turns schedule the agents is the model's own (assumption 1).
43_control.md R232, R234: the engine's turn runs the command that CMD holds, whole; an illegal word completes with
ILLEGAL_CMD; an idle engine takes no step. 70_reset_and_hazards.md R300: the reset input asserted and released.
20_memory.md R60: another bus agent's accesses. 30_encoding.md R95: the host's turn runs its next statement (that BNZ
goes to the first of several equal labels, and stops at a missing one, is the model's own: assumption 14). -/
def Obligations.StepRunsThePendingCommand : Prop :=
  ∀ (s : State) (rest : List Turn), let r : State := { s with turns := rest }
    (∀ (k : Nat) (u : State), r.focus k = some u → s.insts[k]? = some u.core ∧ u.insts = s.insts ∧
      u = { r with before := u.before, core := u.core, after := u.after } ∧
      (s.turns = .engine k :: rest →
        (u.core.busy = true → ∀ i, decode u.core.cmd = .ok i → step s = exec i u) ∧
        (u.core.busy = true → (∀ i, u.core.cmd ≠ encode i) → step s = .next { u with core := u.core.ended 1 }) ∧
        (u.core.busy = false → step s = .next u)) ∧
      (s.turns = .assertReset k :: rest →
        step s = .next { resetInst u with core := { (resetInst u).core with held := true } }) ∧
      (s.turns = .releaseReset k :: rest → step s = .next { u with core := { u.core with held := false } })) ∧
    (∀ k, k < s.insts.length → ∃ u, r.focus k = some u) ∧
    (∀ k, s.insts.length ≤ k → s.turns ∈ [.engine k :: rest, .assertReset k :: rest, .releaseReset k :: rest] →
      step s = .refused .noSuchInstance) ∧
    (∀ a, s.turns = .platformRead a :: rest → step s = probeByte a r) ∧
    (∀ a v, s.turns = .platformWrite a v :: rest → step s = storeByte a v r) ∧
    (s.turns = .host :: rest →
      (s.host.prog.length ≤ s.host.pos → step s = .next r) ∧
      ∀ st, s.host.prog[s.host.pos]? = some st →
        let p (n : Nat) : State := { r with host := { s.host with pos := n } }
        let q := p (s.host.pos + 1)
        (∀ addr bytes v, st = .write addr bytes v → step s = busWrite addr bytes v q) ∧
        (∀ addr bytes x, st = .read addr bytes x → step s = busRead addr bytes x q) ∧
        (∀ a x, st = .loadByte a x → step s = loadByte a x q) ∧
        (∀ a v, st = .storeByte a v → step s = storeByte a v q) ∧
        (∀ k x, st = .irq k x → step s = sampleIrq k x q) ∧
        (∀ l, st = .label l → step s = .next q) ∧
        ∀ x mask l, st = .bnz x mask l →
          (getVar s.host x &&& mask = 0 → step s = .next q) ∧
          (getVar s.host x &&& mask ≠ 0 →
            (∀ n, s.host.prog[n]? = some (.label l) → (∀ m, m < n → s.host.prog[m]? ≠ some (.label l)) →
              step s = .next (p n)) ∧
            (.label l ∉ s.host.prog → step s = .refused .noSuchLabel)))

/-- The model's own (assumptions 1 and 15): with no turn scheduled and the command in focus pending, the step runs it;
so does the step after a word is made pending from any state. -/
def Obligations.UnscheduledStepRunsThePendingCommand : Prop :=
  (∀ (s : State) (i : Instr), s.turns = [] → s.core.busy = true → decode s.core.cmd = .ok i → step s = exec i s) ∧
  (∀ (s : State) (i : Instr), step (s.withFetchWord 32 (encode i).toNat) = exec i (s.withFetchWord 32 (encode i).toNat)) ∧
  ∀ s : State, s.turns = [] → (∀ c ∈ s.insts, c.busy = false) → s.host.prog.length ≤ s.host.pos → step s = .next s

/-- 43_control.md R232 and R233: while BUSY the engine's step exists, and it ends with the completion: BUSY 0, DONE 1,
IRQ following IRQ_EN. -/
def Obligations.EveryEngineStepCompletes : Prop :=
  ∀ s : State, s.core.busy = true → ∃ t, engineTurn s = .next t ∧ t.core.busy = false ∧ t.core.done = true ∧
    irqLevel t.core = t.core.irqEn ∧ t.core.irqEn = s.core.irqEn ∧ t.core.cmd = s.core.cmd ∧ t.core.errcode.toNat ≤ 8

/-! ## The commands -/

/-- 40_chacha20.md R121, all of CHACHA20_BLOCK: its three errors in order, its result, and that nothing else changes. -/
def Obligations.Chacha20BlockRunsItsRule : Prop :=
  ∀ s : State, let c := s.core; let p := s.params; let d := r64 c.dst
    (2 ^ 32 < ctr33 c + 1 → exec .chacha20Block s = .next { s with core := c.ended 2 }) ∧
    (ctr33 c + 1 ≤ 2 ^ 32 → ¬RangeOk p d 64 → exec .chacha20Block s = .next { s with core := c.ended 4 }) ∧
    (ctr33 c + 1 ≤ 2 ^ 32 → RangeOk p d 64 → ¬AllAdmitted p d 64 →
      ∃ m n, exec .chacha20Block s = .next { s with core := c.ended 8, mem := m, draws := n } ∧
        FreeOnlyIn p s.mem m d 64) ∧
    (ctr33 c + 1 ≤ 2 ^ 32 → RangeOk p d 64 → AllAdmitted p d 64 →
      ∃ m, exec .chacha20Block s = .next { s with core := c.ended 0, mem := m } ∧
        Wrote s.mem m d (chachaBlock (keyBytes c) (nonceBytes c) (BitVec.ofNat 32 (ctr33 c))))

/-- 40_chacha20.md R122, all of CHACHA20_XOR: its four errors in order, its result and counter, and that nothing else
changes. -/
def Obligations.Chacha20XorRunsItsRule : Prop :=
  ∀ s : State, let c := s.core; let p := s.params; let l := r64 c.len; let a := r64 c.src; let d := r64 c.dst
    let nb := (l + 63) / 64
    (2 ^ 32 < ctr33 c + nb → exec .chacha20Xor s = .next { s with core := c.ended 2 }) ∧
    (ctr33 c + nb ≤ 2 ^ 32 → ¬(RangeOk p a l ∧ RangeOk p d l) →
      exec .chacha20Xor s = .next { s with core := c.ended 4 }) ∧
    (ctr33 c + nb ≤ 2 ^ 32 → RangeOk p a l → RangeOk p d l → ¬(a = d ∨ Apart a l d l) →
      exec .chacha20Xor s = .next { s with core := c.ended 5 }) ∧
    (ctr33 c + nb ≤ 2 ^ 32 → RangeOk p a l → RangeOk p d l → (a = d ∨ Apart a l d l) →
      ¬(AllAdmitted p a l ∧ AllAdmitted p d l) →
      ∃ m n, exec .chacha20Xor s = .next { s with core := c.ended 8, mem := m, draws := n } ∧
        FreeOnlyIn p s.mem m d l) ∧
    (ctr33 c + nb ≤ 2 ^ 32 → RangeOk p a l → RangeOk p d l → (a = d ∨ Apart a l d l) →
      AllAdmitted p a l → AllAdmitted p d l →
      ∃ m, exec .chacha20Xor s = .next { s with mem := m, core := { c.ended 0 with
          counter := BitVec.ofNat 32 (ctr33 c + nb), ctrExh := decide (ctr33 c + nb = 2 ^ 32) } } ∧
        Wrote s.mem m d (xorStream (keyBytes c) (nonceBytes c) (ctr33 c) (readBytes s.mem a l)))

/-- 41_poly1305.md R159, POLY1305_INIT: it always opens a context with the key's r and s, and nothing else changes. -/
def Obligations.Poly1305InitOpensTheContext : Prop :=
  ∀ s : State, exec .poly1305Init s = .next { s with core := { s.core.ended 0 with
    ctx := { valid := true, r := clamp (s.core.key[3] ++ s.core.key[2] ++ s.core.key[1] ++ s.core.key[0]),
             s := s.core.key[7] ++ s.core.key[6] ++ s.core.key[5] ++ s.core.key[4], acc := 0, pbuf := [] } } }

/-- 41_poly1305.md R160, POLY1305_UPDATE: its errors in order and their effect on the context; on success the bytes are
absorbed, PBUF_LEN is what is left over, and nothing else changes. -/
def Obligations.Poly1305UpdateRunsItsRule : Prop :=
  ∀ s : State, let c := s.core; let p := s.params; let l := r64 c.len; let a := r64 c.src
    (c.ctx.valid = false → exec .poly1305Update s = .next { s with core := c.ended 6 }) ∧
    (c.ctx.valid = true → ¬RangeOk p a l → exec .poly1305Update s = .next { s with core := c.ended 4 }) ∧
    (c.ctx.valid = true → RangeOk p a l → ¬AllAdmitted p a l →
      exec .poly1305Update s = .next { s with core := { c.ended 8 with ctx := PolyCtx.closed } }) ∧
    (c.ctx.valid = true → RangeOk p a l → AllAdmitted p a l →
      exec .poly1305Update s = .next { s with core := { c.ended 0 with
        ctx := absorb c.ctx (readBytes s.mem a l) } } ∧
      (absorb c.ctx (readBytes s.mem a l)).valid = true ∧
      (absorb c.ctx (readBytes s.mem a l)).pbuf.length = (c.ctx.pbuf.length + l) % 16)

/-- 41_poly1305.md R161, POLY1305_FINISH: NO_CONTEXT without a context; else the tag in TAG0..3 and the context closed,
and nothing else changes. -/
def Obligations.Poly1305FinishRunsItsRule : Prop :=
  ∀ s : State, let c := s.core
    (c.ctx.valid = false → exec .poly1305Finish s = .next { s with core := c.ended 6 }) ∧
    (c.ctx.valid = true → ∃ t, exec .poly1305Finish s = .next { s with core := { c.ended 0 with
        tag := t, ctx := PolyCtx.closed } } ∧ t.toList.flatMap ser32 = finalOf c.ctx)

/-- 41_poly1305.md R162, POLY1305_AUTH: its errors in order and their effect on the context; on success the tag in
TAG0..3 and the context closed, and nothing else changes. -/
def Obligations.Poly1305AuthRunsItsRule : Prop :=
  ∀ s : State, let c := s.core; let p := s.params; let l := r64 c.len; let a := r64 c.src
    (¬RangeOk p a l → exec .poly1305Auth s = .next { s with core := c.ended 4 }) ∧
    (RangeOk p a l → ¬AllAdmitted p a l →
      exec .poly1305Auth s = .next { s with core := { c.ended 8 with ctx := PolyCtx.closed } }) ∧
    (RangeOk p a l → AllAdmitted p a l →
      ∃ t, exec .poly1305Auth s = .next { s with core := { c.ended 0 with tag := t, ctx := PolyCtx.closed } } ∧
        t.toList.flatMap ser32 = poly1305 (keyBytes c) (readBytes s.mem a l))

/-- 42_aead.md R194, all of AEAD_ENCRYPT: its four errors in order and their effects; on success ciphertext and tag at
DST, the tag in TAG0..3, the context closed, and nothing else changes (COUNTER and CTR_EXH among it). -/
def Obligations.AeadEncryptRunsItsRule : Prop :=
  ∀ s : State, let c := s.core; let p := s.params; let l := r64 c.len; let a := r64 c.src; let d := r64 c.dst
    let b := r64 c.aad; let bl := r64 c.aadlen
    let ranges := RangeOk p a l ∧ RangeOk p d (l + 16) ∧ RangeOk p b bl
    let apart := (a = d ∨ Apart a l d (l + 16)) ∧ Apart b bl d (l + 16)
    let admitted := AllAdmitted p a l ∧ AllAdmitted p b bl ∧ AllAdmitted p d (l + 16)
    (2 ^ 38 - 64 < l → exec .aeadEncrypt s = .next { s with core := c.ended 3 }) ∧
    (l ≤ 2 ^ 38 - 64 → ¬ranges → exec .aeadEncrypt s = .next { s with core := c.ended 4 }) ∧
    (l ≤ 2 ^ 38 - 64 → ranges → ¬apart → exec .aeadEncrypt s = .next { s with core := c.ended 5 }) ∧
    (l ≤ 2 ^ 38 - 64 → ranges → apart → ¬admitted →
      ∃ m n, exec .aeadEncrypt s = .next { s with
          mem := m, draws := n, core := { c.ended 8 with ctx := PolyCtx.closed } } ∧ FreeOnlyIn p s.mem m d (l + 16)) ∧
    (l ≤ 2 ^ 38 - 64 → ranges → apart → admitted →
      let ct := xorStream (keyBytes c) (nonceBytes c) 1 (readBytes s.mem a l)
      let tag := poly1305 ((chachaBlock (keyBytes c) (nonceBytes c) 0).take 32) (macData (readBytes s.mem b bl) ct)
      ∃ m t, exec .aeadEncrypt s = .next { s with
          mem := m, core := { c.ended 0 with tag := t, ctx := PolyCtx.closed } } ∧
        t.toList.flatMap ser32 = tag ∧ Wrote s.mem m d (ct ++ tag))

/-- 42_aead.md R196, all of AEAD_DECRYPT: its six outcomes in order and their effects. Only the last writes plaintext;
COUNTER, CTR_EXH and TAG never change. -/
def Obligations.AeadDecryptRunsItsRule : Prop :=
  ∀ s : State, let c := s.core; let p := s.params; let l := r64 c.len; let a := r64 c.src; let d := r64 c.dst
    let b := r64 c.aad; let bl := r64 c.aadlen
    let ranges := RangeOk p a l ∧ RangeOk p d l ∧ RangeOk p b bl
    let apart := (a = d ∨ Apart a l d l) ∧ Apart b bl d l
    let readable := AllAdmitted p a l ∧ AllAdmitted p b bl
    let tag := poly1305 ((chachaBlock (keyBytes c) (nonceBytes c) 0).take 32)
      (macData (readBytes s.mem b bl) (readBytes s.mem a l))
    let closed (e : BitVec 4) : Inst := { c.ended e with ctx := PolyCtx.closed }
    (2 ^ 38 - 64 < l → exec .aeadDecrypt s = .next { s with core := c.ended 3 }) ∧
    (l ≤ 2 ^ 38 - 64 → ¬ranges → exec .aeadDecrypt s = .next { s with core := c.ended 4 }) ∧
    (l ≤ 2 ^ 38 - 64 → ranges → ¬apart → exec .aeadDecrypt s = .next { s with core := c.ended 5 }) ∧
    (l ≤ 2 ^ 38 - 64 → ranges → apart → ¬readable → exec .aeadDecrypt s = .next { s with core := closed 8 }) ∧
    (l ≤ 2 ^ 38 - 64 → ranges → apart → readable → tagBytes c ≠ tag →
      exec .aeadDecrypt s = .next { s with core := closed 7 }) ∧
    (l ≤ 2 ^ 38 - 64 → ranges → apart → readable → tagBytes c = tag → ¬AllAdmitted p d l →
      ∃ m n, exec .aeadDecrypt s = .next { s with mem := m, draws := n, core := closed 8 } ∧
        FreeOnlyIn p s.mem m d l) ∧
    (l ≤ 2 ^ 38 - 64 → ranges → apart → readable → tagBytes c = tag → AllAdmitted p d l →
      ∃ m, exec .aeadDecrypt s = .next { s with mem := m, core := closed 0 } ∧
        Wrote s.mem m d (xorStream (keyBytes c) (nonceBytes c) 1 (readBytes s.mem a l)))

/-- 43_control.md R235, ZEROIZE: KEY, TAG and the context cleared, and nothing else changes. -/
def Obligations.ZeroizeClearsEverySecret : Prop :=
  ∀ s : State, ∃ t, exec .zeroize s = .next t ∧
    t = { s with core := { s.core.ended 0 with
            key := t.core.key, tag := t.core.tag, ctx := { valid := false, r := 0, s := 0, acc := 0, pbuf := [] } } } ∧
    (∀ i : Fin 8, t.core.key[i] = 0) ∧ ∀ k : Fin 4, t.core.tag[k] = 0

/-! ## What every command keeps -/

/-- 30_encoding.md R93 (the "registers written" and "hidden state" columns): which command may change which register. -/
def Obligations.CommandsWriteOnlyTheirRegisters : Prop :=
  ∀ (i : Instr) (s t : State), exec i s = .next t →
    t = { s with mem := t.mem, draws := t.draws, core := { s.core.ended t.core.errcode with
            counter := t.core.counter, ctrExh := t.core.ctrExh, key := t.core.key, tag := t.core.tag,
            ctx := t.core.ctx } } ∧
    (i ≠ .chacha20Xor → t.core.counter = s.core.counter ∧ t.core.ctrExh = s.core.ctrExh) ∧
    (i ≠ .zeroize → t.core.key = s.core.key) ∧
    (i ∉ [.poly1305Finish, .poly1305Auth, .aeadEncrypt, .zeroize] → t.core.tag = s.core.tag) ∧
    (i ∈ [.chacha20Block, .chacha20Xor] → t.core.ctx = s.core.ctx)

/-- 20_memory.md R61 (the "write range" column) with 60_exceptions.md R264: no command changes a byte outside its write
range, or a byte that is not admitted. -/
def Obligations.CommandsWriteOnlyTheirWriteRange : Prop :=
  ∀ (i : Instr) (s t : State), exec i s = .next t → ∀ x,
    (∀ r ∈ writeRanges i s.core, x < r.addr ∨ r.addr + r.len ≤ x) ∨ memAdmit s.params x = false →
    readByte t.mem x = readByte s.mem x

/-- 20_memory.md R61 (the "read ranges" column): a command's result does not depend on any byte outside its read
ranges. Two runs whose memories agree there leave the same registers and write the same bytes. -/
def Obligations.CommandsReadOnlyTheirReadRanges : Prop :=
  ∀ (i : Instr) (s : State) (m : Memory),
    (∀ r ∈ readRanges i s.core, ∀ x, r.addr ≤ x → x < r.addr + r.len → readByte m x = readByte s.mem x) →
    ∃ t u, exec i s = .next t ∧ exec i { s with mem := m } = .next u ∧ u.core = t.core ∧
      ∀ x, readByte u.mem x = readByte t.mem x ∨
        (readByte t.mem x = readByte s.mem x ∧ readByte u.mem x = readByte m x)

/-- 60_exceptions.md R260 and R261: which error codes a command can report. -/
def Obligations.CommandsReportOnlyTheirErrors : Prop :=
  ∀ (i : Instr) (s t : State), exec i s = .next t →
    t.core.errcode ∈ match i with
      | .chacha20Block => ([0, 2, 4, 8] : List (BitVec 4))
      | .chacha20Xor => [0, 2, 4, 5, 8]
      | .poly1305Init => [0]
      | .poly1305Update => [0, 6, 4, 8]
      | .poly1305Finish => [0, 6]
      | .poly1305Auth => [0, 4, 8]
      | .aeadEncrypt => [0, 3, 4, 5, 8]
      | .aeadDecrypt => [0, 3, 4, 5, 7, 8]
      | .zeroize => [0]

/-- 60_exceptions.md R262 but for one point: a failure other than BUS_ERROR leaves its completion record and nothing else,
except that AUTH_FAIL has closed the context, as 42_aead.md R196 says against R262 (DEDUCED, assumption 20). -/
def Obligations.FailuresButBusErrorHaveNoEffect : Prop :=
  ∀ (i : Instr) (s t : State), exec i s = .next t → t.core.errcode ≠ 0 → t.core.errcode ≠ 8 →
    t = { s with core := { s.core.ended t.core.errcode with ctx := t.core.ctx } } ∧
    (t.core.errcode ≠ 7 → t.core.ctx = s.core.ctx) ∧ (t.core.errcode = 7 → t.core.ctx = PolyCtx.closed)

/-- 60_exceptions.md R277: an engine's turn changes no other instance. -/
def Obligations.EngineTurnChangesNoOtherInstance : Prop :=
  ∀ (s t : State) (k : Nat) (rest : List Turn), s.turns = .engine k :: rest → step s = .next t →
    t.insts.length = s.insts.length ∧ ∀ j, j ≠ k → t.insts[j]? = s.insts[j]?

/-! ## ChaCha20 -/

/-- 40_chacha20.md R113: the quarter round's four stages on any four distinct words, every other word unchanged; it
fixes zero and is a bijection. -/
def Obligations.QuarterRoundIsFourStages : Prop :=
  ∀ (w : Matrix) (a b c d : Fin 16), a ≠ b → a ≠ c → a ≠ d → b ≠ c → b ≠ d → c ≠ d →
    (let a1 := w[a] + w[b]; let d1 := (w[d] ^^^ a1).rotateLeft 16
     let c1 := w[c] + d1;   let b1 := (w[b] ^^^ c1).rotateLeft 12
     let a2 := a1 + b1;     let d2 := (d1 ^^^ a2).rotateLeft 8
     let c2 := c1 + d2;     let b2 := (b1 ^^^ c2).rotateLeft 7
     (quarterRound w a b c d)[a] = a2 ∧ (quarterRound w a b c d)[b] = b2 ∧
     (quarterRound w a b c d)[c] = c2 ∧ (quarterRound w a b c d)[d] = d2) ∧
    (∀ e : Fin 16, e ≠ a → e ≠ b → e ≠ c → e ≠ d → (quarterRound w a b c d)[e] = w[e]) ∧
    (w[a] = 0 → w[b] = 0 → w[c] = 0 → w[d] = 0 → quarterRound w a b c d = w) ∧
    Function.Bijective fun v : Matrix => quarterRound v a b c d

/-- 40_chacha20.md R117: quarter rounds on disjoint words may be computed in either order. R114, R115, R116: the column
round does the quarter round of each column, the diagonal round that of each wrapped diagonal, and Perm is ten times the
one and then the other. The quadruples, the matrix's order and the column round's going first are values the spec marks as
general knowledge (PRESUMED, assumption 22). -/
def Obligations.DisjointQuarterRoundsCommute : Prop :=
  (∀ (w : Matrix) (a b c d e f g h : Fin 16), [a, b, c, d, e, f, g, h].Nodup →
    quarterRound (quarterRound w a b c d) e f g h = quarterRound (quarterRound w e f g h) a b c d) ∧
  (∀ (w : Matrix) (j : Fin 4) (row : Fin 4),
    let col (i : Nat) : Fin 16 := Fin.ofNat 16 (4 * i + j.val)
    let diag (i : Nat) : Fin 16 := Fin.ofNat 16 (4 * i + (j.val + i) % 4)
    (columnRound w)[col row.val] = (quarterRound w (col 0) (col 1) (col 2) (col 3))[col row.val] ∧
    (diagonalRound w)[diag row.val] = (quarterRound w (diag 0) (diag 1) (diag 2) (diag 3))[diag row.val]) ∧
  ∀ w : Matrix, chachaPerm w = (fun v => diagonalRound (columnRound v))^[10] w

/-- 40_chacha20.md R112 with 10_state.md R27, R28: the initial matrix is the constants, the key's words, the block index
and the nonce's words; in the CORE these are the KEY and NONCE registers. The four constants are R110's, which the spec
marks as general knowledge (PRESUMED, assumption 22). -/
def Obligations.InitialMatrixIsTheRegisters : Prop :=
  (∀ (k n : List Byte) (c : Word), let x := chachaInit k n c
    x[0] = 0x61707865 ∧ x[1] = 0x3320646e ∧ x[2] = 0x79622d32 ∧ x[3] = 0x6b206574 ∧
    (∀ i : Fin 8, x[4 + i.val] = le32At k i) ∧ x[12] = c ∧ ∀ j : Fin 3, x[13 + j.val] = le32At n j) ∧
  ∀ (c : Inst) (b : Word), let x := chachaInit (keyBytes c) (nonceBytes c) b
    (∀ i : Fin 8, x[4 + i.val] = c.key[i]) ∧ ∀ j : Fin 3, x[13 + j.val] = c.nonce[j]

/-- 40_chacha20.md R118: word i of a block, read little-endian, is word i of the permuted matrix plus word i of the
initial one; a block has 64 bytes. -/
def Obligations.BlockAddsTheInitialMatrix : Prop :=
  ∀ (k n : List Byte) (c : Word), (chachaBlock k n c).length = 64 ∧
    ∀ i : Fin 16, le32At (chachaBlock k n c) i.val = (chachaPerm (chachaInit k n c))[i] + (chachaInit k n c)[i]

/-- 40_chacha20.md R119: byte i of the output is byte i of the input xor byte i mod 64 of block c0 + i div 64. -/
def Obligations.XorStreamIsBytewise : Prop :=
  ∀ (k n : List Byte) (c0 : Nat) (p : List Byte), (xorStream k n c0 p).length = p.length ∧
    ∀ i, i < p.length → (xorStream k n c0 p).getD i 0 =
      p.getD i 0 ^^^ (chachaBlock k n (BitVec.ofNat 32 (c0 + i / 64))).getD (i % 64) 0

/-- 40_chacha20.md R120 and 10_state.md R39: a CHACHA20_XOR that succeeds advances the logical counter by its blocks and
never past 2^32; one that fails leaves it. -/
def Obligations.CounterNeverWraps : Prop :=
  ∀ s t : State, exec .chacha20Xor s = .next t →
    (t.core.errcode = 0 → ctr33 t.core = ctr33 s.core + (r64 s.core.len + 63) / 64 ∧ ctr33 t.core ≤ 2 ^ 32 ∧
      (t.core.ctrExh = true → t.core.counter = 0)) ∧
    (t.core.errcode ≠ 0 → ctr33 t.core = ctr33 s.core)

/-- 40_chacha20.md R124: XorStream is its own inverse; and a CHACHA20_XOR, a host write of the old value to COUNTER, and a
CHACHA20_XOR of the output with the same KEY and NONCE give the input back. -/
def Obligations.Chacha20XorTwiceRestoresTheInput : Prop :=
  (∀ (k n : List Byte) (c : Nat) (p : List Byte), xorStream k n c (xorStream k n c p) = p) ∧
  ∀ (s t : State) (d2 : RegPair), let l := r64 s.core.len; let d := r64 s.core.dst; let e := r64 d2
    exec .chacha20Xor s = .next t → t.core.errcode = 0 →
    RangeOk s.params e l → (d = e ∨ Apart d l e l) → AllAdmitted s.params e l →
    ∃ u, exec .chacha20Xor (t.setCore (storeReg .counter s.core.counter
        { t.core with src := s.core.dst, dst := d2 })) = .next u ∧
      u.core.errcode = 0 ∧ readBytes u.mem e l = readBytes s.mem (r64 s.core.src) l

/-- 40_chacha20.md R125: two CHACHA20_XOR commands with no COUNTER write between them, the first of a length that is a
multiple of 64, do what one command over the whole does. -/
def Obligations.Chacha20XorChainsAtWholeBlocks : Prop :=
  ∀ (s t u : State) (len1 len2 src2 dst2 : RegPair),
    let l := r64 s.core.len; let l1 := r64 len1
    64 ∣ l1 → l1 + r64 len2 = l → r64 src2 = r64 s.core.src + l1 → r64 dst2 = r64 s.core.dst + l1 →
    exec .chacha20Xor s = .next t → t.core.errcode = 0 →
    exec .chacha20Xor (s.setCore { s.core with len := len1 }) = .next u →
    u.core.errcode = 0 ∧
    ∃ v, exec .chacha20Xor (u.setCore { u.core with src := src2, dst := dst2, len := len2 }) = .next v ∧
      v.core.errcode = 0 ∧ v.core.counter = t.core.counter ∧ v.core.ctrExh = t.core.ctrExh ∧
      ∀ x, readByte v.mem x = readByte t.mem x

/-! ## Poly1305 -/

/-- 41_poly1305.md R150 and R155 with 10_state.md R33: the key's halves, as little-endian integers, are the KEY registers;
the tag is (acc + s) mod 2^128, and so stands in the TAG registers. -/
def Obligations.Poly1305RegistersHoldTheirIntegers : Prop :=
  (∀ c : Inst,
    leNat ((keyBytes c).take 16) = (c.key[3] ++ c.key[2] ++ c.key[1] ++ c.key[0]).toNat ∧
    leNat ((keyBytes c).drop 16) = (c.key[7] ++ c.key[6] ++ c.key[5] ++ c.key[4]).toNat ∧
    keyR (keyBytes c) = clamp (c.key[3] ++ c.key[2] ++ c.key[1] ++ c.key[0]) ∧
    keyS (keyBytes c) = c.key[7] ++ c.key[6] ++ c.key[5] ++ c.key[4]) ∧
  ∀ (acc : Nat) (s : Half), finalTag acc s = serNat 16 ((acc + s.toNat) % 2 ^ 128) ∧
    leNat (finalTag acc s) = (acc + s.toNat) % 2 ^ 128 ∧
    (tagWords (finalTag acc s))[3] ++ (tagWords (finalTag acc s))[2] ++
      (tagWords (finalTag acc s))[1] ++ (tagWords (finalTag acc s))[0] = BitVec.ofNat 128 (acc + s.toNat)

/-- 41_poly1305.md R151: which bits clamping forces to zero; every other bit is kept. The mask is a value the spec marks as
general knowledge (PRESUMED, assumption 22). -/
def Obligations.ClampForcesItsBitsToZero : Prop :=
  ∀ (r : Half) (i : Nat), i < 128 →
    (clamp r).getLsbD i = (r.getLsbD i && !(decide (28 ≤ i % 32) || (decide (32 ≤ i) && decide (i % 32 < 2))))

/-- 41_poly1305.md R153: the blocks of a message are the message cut at multiples of 16, the last one 1 to 16 bytes; a
block's integer is its bytes with a one above them, below 2^129, and tells apart blocks of different content or
length. -/
def Obligations.BlocksCutTheMessage : Prop :=
  (∀ m : List Byte, (polyBlocks m).flatten = m ∧ (∀ b ∈ polyBlocks m, 1 ≤ b.length ∧ b.length ≤ 16) ∧
    (∀ b ∈ (polyBlocks m).dropLast, b.length = 16) ∧ (polyBlocks m).length = (m.length + 15) / 16) ∧
  (∀ b : List Byte, b.length ≤ 16 → blockNumber b = leNat b + 2 ^ (8 * b.length) ∧ blockNumber b < 2 ^ 129) ∧
  ∀ b d : List Byte, blockNumber b = blockNumber d → b = d

/-- 41_poly1305.md R152, R154, R156: the one-shot tag is the fold of ((acc + N(b)) * r) mod (2^130 - 5) over the blocks
from acc = 0, finalised with s; absorbing keeps the accumulator below 2^130 - 5; and the one-shot function's corner
cases. -/
def Obligations.Poly1305CornerTags : Prop :=
  (∀ k m : List Byte, poly1305 k m = finalTag ((polyBlocks m).foldl
    (fun acc b => (acc + (leNat b + 2 ^ (8 * b.length))) * (keyR k).toNat % (2 ^ 130 - 5)) 0) (keyS k)) ∧
  (∀ (x : PolyCtx) (d : List Byte), x.acc < 2 ^ 130 - 5 → (absorb x d).acc < 2 ^ 130 - 5) ∧
  (∀ k : List Byte, poly1305 k [] = serNat 16 (keyS k).toNat) ∧
  ∀ k m : List Byte, keyR k = 0 → poly1305 k m = serNat 16 (keyS k).toNat

/-- 41_poly1305.md R158: for every key, message and split of the message, the incremental form gives the one-shot
tag. -/
def Obligations.IncrementalPoly1305EqualsOneShot : Prop :=
  ∀ (k : List Byte) (ds : List (List Byte)), finalOf (ds.foldl absorb (openCtx k)) = poly1305 k ds.flatten

/-- 41_poly1305.md R163: an open context is closed by AUTH, AEAD and ZEROIZE once they pass their checks, so a following
UPDATE or FINISH reports NO_CONTEXT; a command that failed ADDRESS, LENGTH or OVERLAP leaves it as it was. -/
def Obligations.SharedDatapathClosesTheContext : Prop :=
  ∀ (i : Instr) (s t : State), i ∈ [.poly1305Auth, .aeadEncrypt, .aeadDecrypt, .zeroize] → exec i s = .next t →
    (t.core.errcode ∈ ([3, 4, 5] : List (BitVec 4)) → t.core.ctx = s.core.ctx) ∧
    (t.core.errcode ∉ ([3, 4, 5] : List (BitVec 4)) → t.core.ctx = PolyCtx.closed ∧
      exec .poly1305Update t = .next { t with core := t.core.ended 6 } ∧
      exec .poly1305Finish t = .next { t with core := t.core.ended 6 })

/-! ## AEAD -/

/-- 42_aead.md R192: the MAC data is the associated data and the ciphertext, each followed by the fewest zero bytes that
make a multiple of 16, then the two lengths; its length is a multiple of 16. -/
def Obligations.MacDataIsPaddedAndAligned : Prop :=
  ∀ ad ct : List Byte, (macData ad ct).length % 16 = 0 ∧
    ∃ p q : Nat, p < 16 ∧ q < 16 ∧ (ad.length + p) % 16 = 0 ∧ (ct.length + q) % 16 = 0 ∧
      macData ad ct = ad ++ List.replicate p 0 ++ ct ++ List.replicate q 0 ++
        serNat 8 ad.length ++ serNat 8 ct.length

/-- 42_aead.md R193: LENGTH is reported exactly above 2^38 - 64 bytes of LEN, that is when the keystream would need a block
index above 0xFFFFFFFF, by both commands, whatever AADLEN is and whatever else is wrong. -/
def Obligations.AeadLengthLimitIsExact : Prop :=
  ∀ (i : Instr) (s t : State), i ∈ [.aeadEncrypt, .aeadDecrypt] → exec i s = .next t →
    (t.core.errcode = 3 ↔ 2 ^ 38 - 64 < r64 s.core.len) ∧
    (2 ^ 38 - 64 < r64 s.core.len ↔ 2 ^ 32 - 1 < (r64 s.core.len + 63) / 64)

/-- 42_aead.md R197: a decryption that ends with any error but the write-range BUS_ERROR leaves data memory as it was
(so whenever a read range is not admitted); no decryption changes the TAG registers; and plaintext is written only when
the received tag is the computed one. -/
def Obligations.DecryptionFailsClosed : Prop :=
  ∀ s t : State, exec .aeadDecrypt s = .next t →
    t.core.tag = s.core.tag ∧
    (t.core.errcode ≠ 0 → t.core.errcode ≠ 8 → t.mem = s.mem ∧ t.draws = s.draws) ∧
    (¬(AllAdmitted s.params (r64 s.core.src) (r64 s.core.len) ∧
        AllAdmitted s.params (r64 s.core.aad) (r64 s.core.aadlen)) → t.mem = s.mem ∧ t.draws = s.draws) ∧
    (t.mem ≠ s.mem → tagBytes s.core = poly1305 ((chachaBlock (keyBytes s.core) (nonceBytes s.core) 0).take 32)
      (macData (readBytes s.mem (r64 s.core.aad) (r64 s.core.aadlen))
        (readBytes s.mem (r64 s.core.src) (r64 s.core.len))))

/-- 42_aead.md R199: AEAD_ENCRYPT, then its tag loaded from the wire format into TAG0..3, then AEAD_DECRYPT of the
ciphertext with the same KEY, NONCE and AD succeeds and writes the plaintext. -/
def Obligations.AeadRoundTrip : Prop :=
  ∀ (s t : State) (d2 : RegPair), let l := r64 s.core.len; let d := r64 s.core.dst; let e := r64 d2
    let p := s.params
    exec .aeadEncrypt s = .next t → t.core.errcode = 0 →
    RangeOk p e l → (d = e ∨ Apart d l e l) → Apart (r64 s.core.aad) (r64 s.core.aadlen) e l → AllAdmitted p e l →
    ∃ u, exec .aeadDecrypt (t.setCore { t.core with
          src := s.core.dst, dst := d2, tag := tagWords (readBytes t.mem (d + l) 16) }) = .next u ∧
      u.core.errcode = 0 ∧ readBytes u.mem e l = readBytes s.mem (r64 s.core.src) l

/-- 42_aead.md R200: where a decryption succeeds, any other received tag gives AUTH_FAIL; by R196 it changes no memory and
has closed the context (assumption 20, against the general words of 60_exceptions.md R262). -/
def Obligations.AnyOtherTagFailsAuthentication : Prop :=
  ∀ (s t : State) (tag : Vector Word 4), exec .aeadDecrypt s = .next t → t.core.errcode = 0 → tag ≠ s.core.tag →
    exec .aeadDecrypt (s.setCore { s.core with tag := tag }) =
      .next { s with core := { s.core.ended 7 with tag := tag, ctx := PolyCtx.closed } }

/-! ## Registers, STATUS and the host -/

/-- 10_state.md R34, R37, R38: where each STATUS field stands and what it reads. -/
def Obligations.StatusFieldsStandInTheirBits : Prop :=
  ∀ c : Inst, let w := statusWord c
    w.getLsbD 0 = c.busy ∧ w.getLsbD 1 = c.done ∧ w.getLsbD 2 = decide (c.errcode ≠ 0) ∧
    w.getLsbD 3 = decide (c.errcode = 7) ∧ w.extractLsb' 4 4 = c.errcode ∧ w.getLsbD 8 = c.ctx.valid ∧
    w.getLsbD 9 = c.ctrExh ∧ w.getLsbD 10 = c.overrun ∧ w.extractLsb' 11 5 = 0 ∧
    w.extractLsb' 16 4 = BitVec.ofNat 4 c.ctx.pbuf.length ∧ w.extractLsb' 20 12 = 0

/-- 10_state.md R41: a host write of STATUS. -/
def Obligations.StatusWriteClearsItsFields : Prop :=
  ∀ (c : Inst) (v : Word), writeStatus v c = { c with
    done := c.done && !v.getLsbD 1,
    errcode := if v.getLsbD 1 = true ∧ c.done = true then 0 else c.errcode,
    overrun := c.overrun && !v.getLsbD 10 }

/-- 60_exceptions.md R267: what raises and lowers IRQ: a STATUS write with bit 1 set, the doorbell, a CTRL write, and the
completion of a command. -/
def Obligations.InterruptFollowsDoneAndEnable : Prop :=
  (∀ (i : Instr) (s t : State), exec i s = .next t → irqLevel t.core = s.core.irqEn) ∧
  (∀ (c : Inst) (v : Word), v.getLsbD 1 = true → irqLevel (regWrite 0x00C v c) = false) ∧
  (∀ (c : Inst) (v : Word), irqLevel (ringDoorbell v c) = false) ∧
  (∀ c : Inst, c.done = true → ∀ v : Word, irqLevel (regWrite 0x004 v c) = v.getLsbD 0 ∧
    (regWrite 0x004 v c).done = true)

/-- 10_state.md R23: a host access reaches the instance whose 4 KiB block holds its address, and changes which instance
is in focus only. -/
def Obligations.HostAddressFindsItsInstance : Prop :=
  (∀ (s u : State) (addr : Nat), s.focusAddr addr = some u →
    u.insts = s.insts ∧ u.core.base ≤ addr ∧ addr < u.core.base + 0x1000 ∧
    u = { s with before := u.before, core := u.core, after := u.after }) ∧
  ∀ (s : State) (addr : Nat), (∃ c ∈ s.insts, c.base ≤ addr ∧ addr < c.base + 0x1000) →
    ∃ u, s.focusAddr addr = some u

/-- 43_control.md R237: what a host read returns at every offset; it may be issued at any time and changes nothing but
the host's variable, and the claims of 20_memory.md R76 at STATUS with BUSY = 0 only (the claims are the model's own,
assumption 6). -/
def Obligations.HostReadReturnsTheRegister : Prop :=
  (∀ c : Inst, regRead 0x000 c = 0x00078439 ∧ regRead 0x004 c = (if c.irqEn then 1 else 0) ∧
    regRead 0x008 c = c.cmd ∧ regRead 0x00C c = statusWord c ∧ (∀ i : Fin 8, regRead (0x020 + 4 * i.val) c = 0) ∧
    (∀ j : Fin 3, regRead (0x040 + 4 * j.val) c = c.nonce[j]) ∧ regRead 0x04C c = c.counter ∧
    regRead 0x050 c = c.src.lo ∧ regRead 0x054 c = c.src.hi ∧ regRead 0x058 c = c.dst.lo ∧
    regRead 0x05C c = c.dst.hi ∧ regRead 0x060 c = c.len.lo ∧ regRead 0x064 c = c.len.hi ∧
    regRead 0x068 c = c.aad.lo ∧ regRead 0x06C c = c.aad.hi ∧ regRead 0x070 c = c.aadlen.lo ∧
    regRead 0x074 c = c.aadlen.hi ∧ (∀ k : Fin 4, regRead (0x080 + 4 * k.val) c = c.tag[k]) ∧
    ∀ off, (0x010 ≤ off ∧ off ≤ 0x01C) ∨ (0x078 ≤ off ∧ off ≤ 0x07C) ∨ 0x090 ≤ off → regRead off c = 0) ∧
  ∀ (s u : State) (addr x : Nat), s.focusAddr addr = some u → (addr - u.core.base) % 4 = 0 →
    ∃ t, busRead addr 4 x s = .next t ∧ getVar t.host x = regRead (addr - u.core.base) u.core ∧
      (∀ y, y ≠ x → getVar t.host y = getVar s.host y) ∧ t.host.prog = s.host.prog ∧ t.host.pos = s.host.pos ∧
      t = { u with host := t.host, core := { u.core with
              claimReads := t.core.claimReads, claimWrites := t.core.claimWrites } } ∧
      (¬(addr - u.core.base = 0x00C ∧ u.core.busy = false) → t.core = u.core) ∧
      (addr - u.core.base = 0x00C ∧ u.core.busy = false → t.core.claimReads = [] ∧ t.core.claimWrites = [])

/-- 43_control.md R236: what a host write does at every offset but CMD. A CORE held in reset
(70_reset_and_hazards.md R300) keeps its reset values, so no write reaches it, one to CMD included (DEDUCED,
assumption 10). -/
def Obligations.HostWriteReachesItsRegister : Prop :=
  (∀ (s u : State) (addr : Nat) (v : Word), s.focusAddr addr = some u → u.core.held = true →
    (addr - u.core.base) % 4 = 0 → busWrite addr 4 v s = .next u) ∧
  ∀ (s u : State) (addr : Nat) (v : Word), s.focusAddr addr = some u → u.core.held = false →
    let off := addr - u.core.base; let c := u.core
    let frozen (r : Inst) := if c.busy then { c with overrun := true } else r
    let gives (r : Inst) := busWrite addr 4 v s = .next { u with core := r }
    (off = 0x000 ∨ (off % 4 = 0 ∧ ((0x010 ≤ off ∧ off ≤ 0x01C) ∨ (0x078 ≤ off ∧ off ≤ 0x07C) ∨ 0x090 ≤ off)) →
      gives c) ∧
    (off = 0x004 → gives { c with irqEn := v.getLsbD 0 }) ∧ (off = 0x00C → gives (writeStatus v c)) ∧
    (∀ i : Fin 8, off = 0x020 + 4 * i.val → gives (frozen { c with key := c.key.set i v })) ∧
    (∀ j : Fin 3, off = 0x040 + 4 * j.val → gives (frozen { c with nonce := c.nonce.set j v })) ∧
    (off = 0x04C → gives (frozen { c with counter := v, ctrExh := false })) ∧
    (off = 0x050 → gives (frozen { c with src := ⟨v, c.src.hi⟩ })) ∧
    (off = 0x054 → gives (frozen { c with src := ⟨c.src.lo, v⟩ })) ∧
    (off = 0x058 → gives (frozen { c with dst := ⟨v, c.dst.hi⟩ })) ∧
    (off = 0x05C → gives (frozen { c with dst := ⟨c.dst.lo, v⟩ })) ∧
    (off = 0x060 → gives (frozen { c with len := ⟨v, c.len.hi⟩ })) ∧
    (off = 0x064 → gives (frozen { c with len := ⟨c.len.lo, v⟩ })) ∧
    (off = 0x068 → gives (frozen { c with aad := ⟨v, c.aad.hi⟩ })) ∧
    (off = 0x06C → gives (frozen { c with aad := ⟨c.aad.lo, v⟩ })) ∧
    (off = 0x070 → gives (frozen { c with aadlen := ⟨v, c.aadlen.hi⟩ })) ∧
    (off = 0x074 → gives (frozen { c with aadlen := ⟨c.aadlen.lo, v⟩ })) ∧
    ∀ k : Fin 4, off = 0x080 + 4 * k.val → gives (frozen { c with tag := c.tag.set k v })

/-- 43_control.md R231 and 10_state.md R26: the doorbell; a CMD write while busy is dropped and sets OVERRUN; one to a
CORE held in reset reaches nothing (DEDUCED, assumption 10). The claims are the model's own (assumptions 6, 7). -/
def Obligations.DoorbellStartsOneCommand : Prop :=
  (∀ (s u : State) (addr : Nat) (v : Word), s.focusAddr addr = some u → addr - u.core.base = 0x008 →
    u.core.held = true → busWrite addr 4 v s = .next u) ∧
  ∀ (s u : State) (addr : Nat) (v : Word), s.focusAddr addr = some u → addr - u.core.base = 0x008 →
    u.core.held = false →
    (u.core.busy = true → busWrite addr 4 v s = .next { u with core := { u.core with overrun := true } }) ∧
    (u.core.busy = false →
      (∀ o ∈ u.before ++ u.after, claimsMeet (wordReadRanges v u.core) (wordWriteRanges v u.core) o = false) →
      ∃ rs ws, busWrite addr 4 v s = .next { u with core := { u.core with
          cmd := v, done := false, errcode := 0, busy := true, claimReads := rs, claimWrites := ws } } ∧
        (∀ i, decode v = .ok i → readRanges i u.core ⊆ rs ∧ writeRanges i u.core ⊆ ws))

/-- 20_memory.md R82 and 60_exceptions.md R265 (c): a launch whose write range meets a range another instance claims, or
the other way round, is refused. -/
def Obligations.ConflictingLaunchFaults : Prop :=
  ∀ (s u : State) (addr : Nat) (v : Word) (i : Instr) (o : Inst) (x y : Range) (a : Nat),
    s.focusAddr addr = some u → addr - u.core.base = 0x008 → u.core.held = false → u.core.busy = false →
    decode v = .ok i →
    o ∈ u.before ++ u.after → x.addr ≤ a → a < x.addr + x.len → y.addr ≤ a → a < y.addr + y.len →
    ((x ∈ writeRanges i u.core ∧ y ∈ o.claimReads ++ o.claimWrites) ∨
      (x ∈ readRanges i u.core ∧ y ∈ o.claimWrites)) →
    busWrite addr 4 v s = .fault .launchRace

/-- 20_memory.md R71, 43_control.md R238, 60_exceptions.md R265 (a): a register access of another width or alignment is a
host fault, for reads and writes. -/
def Obligations.WrongRegisterAccessFaults : Prop :=
  ∀ (s u : State) (addr bytes x : Nat) (v : Word), s.focusAddr addr = some u →
    bytes ≠ 4 ∨ (addr - u.core.base) % 4 ≠ 0 →
    busWrite addr bytes v s = .fault .hostAccess ∧ busRead addr bytes x s = .fault .hostAccess

/-- 20_memory.md R76 and 60_exceptions.md R265 (b): an access by the host or the platform to an ordinary byte faults
exactly while an instance claims the byte (the claims are the model's own, assumption 6); otherwise it has its effect and
no other. At an address with no byte it faults, and at one that is not ordinary memory it is refused (DEDUCED,
assumption 12; for memory the platform protects from the CORE, 20_memory.md R75, a DESIGN CHOICE there). The form of an access is the model's own: one byte, a store's value given in it (DESIGN CHOICE, assumption
25), and a loaded byte zero-extended into a 32-bit host variable (DESIGN CHOICE, assumption 14). -/
def Obligations.BusyRuleOnDataMemory : Prop :=
  (∀ (s : State) (a x : Nat) (v : Byte),
    (2 ^ s.params.paW ≤ a → storeByte a v s = .fault .noSuchAddress ∧ loadByte a x s = .fault .noSuchAddress ∧
      probeByte a s = .fault .noSuchAddress) ∧
    (a < 2 ^ s.params.paW → memAdmit s.params a = false → storeByte a v s = .refused .notOrdinaryMemory ∧
      loadByte a x s = .refused .notOrdinaryMemory ∧ probeByte a s = .refused .notOrdinaryMemory)) ∧
  ∀ (s : State) (a x : Nat) (v : Byte), memAdmit s.params a = true →
    ((∃ c ∈ s.insts, ∃ r ∈ c.claimReads ++ c.claimWrites, r.addr ≤ a ∧ a < r.addr + r.len) →
      storeByte a v s = .fault .bufferRace ∧ loadByte a x s = .fault .bufferRace ∧
        probeByte a s = .fault .bufferRace) ∧
    ((¬∃ c ∈ s.insts, ∃ r ∈ c.claimReads ++ c.claimWrites, r.addr ≤ a ∧ a < r.addr + r.len) →
      (∃ m, storeByte a v s = .next { s with mem := m } ∧ Wrote s.mem m a [v]) ∧
      (∃ h, loadByte a x s = .next { s with host := h } ∧ getVar h x = (readByte s.mem a).setWidth 32 ∧
        (∀ y, y ≠ x → getVar h y = getVar s.host y) ∧ h.prog = s.host.prog ∧ h.pos = s.host.pos) ∧
      probeByte a s = .next s)

/-- 20_memory.md R76: the host observes a completion by a STATUS read with BUSY = 0 or by the IRQ, and the command's
ranges are then free; a STATUS read while BUSY frees nothing. The claims, and the IRQ observed by sampling its level into a
variable, are the model's own (assumptions 6, 8). -/
def Obligations.ObservedCompletionFreesTheRanges : Prop :=
  (∀ (s u : State) (addr x : Nat), s.focusAddr addr = some u → addr - u.core.base = 0x00C →
    ∃ t, busRead addr 4 x s = .next t ∧
      (u.core.busy = false → t.core.claimReads = [] ∧ t.core.claimWrites = []) ∧
      (u.core.busy = true → t.core = u.core)) ∧
  ∀ (s u : State) (k x : Nat), s.focus k = some u →
    ∃ t, sampleIrq k x s = .next t ∧ getVar t.host x = (if irqLevel u.core then 1 else 0) ∧
      (irqLevel u.core = true → t.core = { u.core with claimReads := [], claimWrites := [] }) ∧
      (irqLevel u.core = false → t.core = u.core)

/-- 60_exceptions.md R269: a write to a frozen register other than CMD ordered before the completion is dropped with
OVERRUN; ordered after it, it is accepted. No event is lost: both orders end with DONE. (A CORE held in reset has no
command pending.) -/
def Obligations.FrozenWriteAndCompletionInEitherOrder : Prop :=
  ∀ (s : State) (r : Reg) (v : Word), s.core.busy = true → s.core.held = false → isFrozen r = true → r ≠ .cmd →
    (∃ t u, hostRegWrite (regOffset r) v s = .next t ∧ engineTurn t = .next u ∧
      t = { s with core := { s.core with overrun := true } } ∧ u.core.overrun = true ∧ u.core.done = true) ∧
    ∃ t u, engineTurn s = .next t ∧ hostRegWrite (regOffset r) v t = .next u ∧
      u.core = storeReg r v t.core ∧ u.core.done = true ∧ u.core.overrun = s.core.overrun

/-- 10_state.md R50 and 43_control.md R237: no host access depends on KEY or on the context's r, s, acc or buffered
bytes. Blanking them before the host's turn changes nothing that stays visible after it. -/
def Obligations.HostSeesNoSecret : Prop :=
  (∀ (c : Inst) (off : Nat), regRead off c = regRead off c.visible) ∧
  ∀ s : State, visibleOutcome (hostTurn s) = visibleOutcome (hostTurn s.visible)

/-! ## Reset -/

/-- 70_reset_and_hazards.md R301 and R302: every register and the hidden state after a reset of any instance in any
state; the instance's BASE and the level of its reset input are the platform's and stay. -/
def Obligations.ResetGivesEveryRegisterItsValue : Prop :=
  ∀ s : State, let c := (resetInst s).core
    regRead 0x000 c = 0x00078439 ∧ (∀ off, off ≠ 0x000 → regRead off c = 0) ∧ (∀ i : Fin 8, c.key[i] = 0) ∧
    c.busy = false ∧ c.done = false ∧ ctr33 c = 0 ∧ irqLevel c = false ∧ c.irqEn = false ∧
    c.ctx = { valid := false, r := 0, s := 0, acc := 0, pbuf := [] } ∧ c.base = s.core.base ∧
    c.held = s.core.held

/-- 70_reset_and_hazards.md R303 and R304: a reset changes no other instance and, outside the admitted bytes of a
pending command's write range, no data memory; with no command pending it changes no data memory at all. -/
def Obligations.ResetAbandonsThePendingCommand : Prop :=
  ∀ s : State, let t := resetInst s
    t = { s with core := t.core, mem := t.mem, draws := t.draws } ∧ t.core.busy = false ∧ t.core.done = false ∧
    (s.core.busy = false → t.mem = s.mem) ∧
    (s.core.busy = true → ∀ x, (∀ i, decode s.core.cmd = .ok i →
        ∀ r ∈ writeRanges i s.core, x < r.addr ∨ r.addr + r.len ≤ x) ∨ memAdmit s.params x = false →
      readByte t.mem x = readByte s.mem x)

/-- 60_exceptions.md R278: after power-up every instance stands as after reset and nothing is pending, so no engine has
a step, and data memory may hold any contents (the contents are the turn's: the model's own, assumption 11). That the
host agent, the turns to come and the levels of the reset inputs stay is the model's own too (DESIGN CHOICE, assumption 11). -/
def Obligations.PowerUpResetsEveryInstance : Prop :=
  ∀ s : State,
    (∀ (cells : List (Nat × BitVec 8)) (rest : List Turn), s.turns = .powerUp cells :: rest →
      ∃ t, step s = .next t ∧ t.params = s.params ∧ t.insts = s.insts.map Inst.resetRegs ∧
        (∀ c ∈ t.insts, c.busy = false) ∧ t.host = s.host ∧ t.turns = rest ∧ engineTurn t = .next t) ∧
    ∀ m : Memory, m.wf = true → (∀ cell ∈ m, memAdmit s.params cell.1 = true) →
      ∃ cells, (powerUp cells s).mem = m

/-! ## Invariants -/

/-- The reset state meets the invariants (10_state.md R43; the parameters are the model's own, assumption 2). -/
def Obligations.ResetMeetsTheInvariants : Prop := State.reset.Inv ∧ State.reset.LaunchesApart

/-- The invariant of the machine, kept by every step from every state that meets it: the Poly1305 context is clamped,
reduced and zero while closed (10_state.md R43); a CORE held in reset stands at its reset values
(70_reset_and_hazards.md R300); DONE and BUSY never together (R36); COUNTER zero at the exhausted
counter (R39); no reserved error code (60_exceptions.md R260); data memory canonical and only at admitted addresses
(20_memory.md R65; that it holds nothing at an address denied to the CORE is the model's own, assumption 12); a pending
command's ranges claimed (the model's own, assumption 6). -/
def Obligations.EveryStepKeepsTheInvariant : Prop :=
  ∀ s t : State, s.Inv → step s = .next t → t.Inv

/-- 20_memory.md R82: no step leads to two instances claiming ranges that meet where one writes. -/
def Obligations.EveryStepKeepsLaunchesApart : Prop :=
  ∀ s t : State, s.LaunchesApart → step s = .next t → t.LaunchesApart

/-- The model's own (DESIGN CHOICE, assumption 2): the parameters 00_scope.md R7 leaves open are fixed for a run: no step
changes PA_W, MemAdmit, the number of instances or their bases. -/
def Obligations.EveryStepKeepsThePlatform : Prop :=
  ∀ s t : State, step s = .next t → t.params = s.params ∧ (t.insts.map fun c => c.base) = s.insts.map fun c => c.base

/-- The laws of data memory (20_memory.md R62, R63) and its canonical form (the model's own): equal contents are equal
data. -/
def Obligations.MemoryIsCanonical : Prop :=
  (∀ (m : Memory) (a n : Nat), (readBytes m a n).length = n ∧
    ∀ i, i < n → (readBytes m a n)[i]? = some (readByte m (a + i))) ∧
  (∀ (m : Memory) (a : Nat) (v : List Byte), Wrote m (writeBytes m a v) a v) ∧
  (∀ (m : Memory) (a : Nat) (v : List Byte), m.wf = true → (writeBytes m a v).wf = true) ∧
  ∀ m m' : Memory, m.wf = true → m'.wf = true → (∀ x, readByte m x = readByte m' x) → m = m'
end

