-- ==== Sys2Proof/Laws/Bytes.lean ====
section
/-! SUPPORT. The little-endian conversions (00_scope.md R12): lengths, bounds and round trips, and the operand byte
strings against the registers (20_memory.md R68). -/

namespace Sys2Proof.Machine

@[simp] theorem serNat_length (n x : Nat) : (serNat n x).length = n := by
  induction n generalizing x with
  | zero => rfl
  | succ n ih => simp [serNat, ih]

@[simp] theorem ser32_length (x : Word) : (ser32 x).length = 4 := by simp [ser32]

theorem leNat_append (b d : List Byte) : leNat (b ++ d) = leNat b + 256 ^ b.length * leNat d := by
  induction b with
  | nil => simp [leNat]
  | cons x b ih => simp only [List.cons_append, leNat, ih, List.length_cons, pow_succ]; ring

theorem leNat_lt (b : List Byte) : leNat b < 256 ^ b.length := by
  induction b with
  | nil => simp [leNat]
  | cons x b ih =>
    have hx := x.isLt
    simp only [leNat, List.length_cons, pow_succ]
    omega

theorem leNat_serNat (n x : Nat) : leNat (serNat n x) = x % 256 ^ n := by
  induction n generalizing x with
  | zero => simp [serNat, leNat, Nat.mod_one]
  | succ n ih =>
    have h8 : (BitVec.ofNat 8 x).toNat = x % 256 := by simp
    rw [serNat, leNat, ih, h8, Nat.pow_succ, Nat.mul_comm (256 ^ n) 256, Nat.mod_mul]

theorem serNat_leNat (b : List Byte) : serNat b.length (leNat b) = b := by
  induction b with
  | nil => rfl
  | cons x b ih =>
    have hx := x.isLt
    have h1 : (x.toNat + 256 * leNat b) / 256 = leNat b := by omega
    have h2 : BitVec.ofNat 8 (x.toNat + 256 * leNat b) = x := by
      apply BitVec.eq_of_toNat_eq
      simp only [BitVec.toNat_ofNat]
      omega
    simp [serNat, leNat, h1, h2, ih]

/-- Little-endian integers of equal-length strings tell the strings apart. -/
theorem leNat_inj {b d : List Byte} (hl : b.length = d.length) (h : leNat b = leNat d) : b = d := by
  rw [← serNat_leNat b, ← serNat_leNat d, hl, h]

theorem serNat_inj {n x y : Nat} (hx : x < 256 ^ n) (hy : y < 256 ^ n) (h : serNat n x = serNat n y) : x = y := by
  have := congrArg leNat h
  rwa [leNat_serNat, leNat_serNat, Nat.mod_eq_of_lt hx, Nat.mod_eq_of_lt hy] at this

@[simp] theorem leNat_ser32 (x : Word) : leNat (ser32 x) = x.toNat := by
  rw [ser32, leNat_serNat]
  exact Nat.mod_eq_of_lt (by have := x.isLt; omega)

/-- A word read back from its own four bytes at the head of a string. -/
theorem le32At_zero_ser32 (x : Word) (b : List Byte) : le32At (ser32 x ++ b) 0 = x := by
  have h : (ser32 x ++ b).take 4 = ser32 x := by
    rw [List.take_append_of_le_length (by simp)]
    exact List.take_of_length_le (by simp)
  simp [le32At, h]

theorem le32At_succ_ser32 (x : Word) (b : List Byte) (k : Nat) : le32At (ser32 x ++ b) (k + 1) = le32At b k := by
  have h : (ser32 x ++ b).drop (4 * (k + 1)) = b.drop (4 * k) := by
    rw [List.drop_append, List.drop_eq_nil_of_le (by simp)]
    simp only [List.nil_append, ser32_length]
    congr 1
  simp only [le32At, h]

/-- The registers of a bank are the LE32 words of its byte string (20_memory.md R68). -/
theorem le32At_flatMap_ser32 (ws : List Word) (k : Nat) (hk : k < ws.length) :
    le32At (ws.flatMap ser32) k = ws[k] := by
  induction ws generalizing k with
  | nil => simp at hk
  | cons x ws ih =>
    cases k with
    | zero => simp [le32At_zero_ser32]
    | succ k =>
      simp only [List.flatMap_cons, le32At_succ_ser32]
      simpa using ih k (by simpa using hk)

@[simp] theorem flatMap_ser32_length (ws : List Word) : (ws.flatMap ser32).length = 4 * ws.length := by
  induction ws with
  | nil => rfl
  | cons x ws ih => simp [ih]; omega

@[simp] theorem keyBytes_length (c : Inst) : (keyBytes c).length = 32 := by simp [keyBytes]
@[simp] theorem nonceBytes_length (c : Inst) : (nonceBytes c).length = 12 := by simp [nonceBytes]
@[simp] theorem tagBytes_length (c : Inst) : (tagBytes c).length = 16 := by simp [tagBytes]

/-- The four bytes of an LE32 word (R12). -/
theorem ser32_le32At (b : List Byte) (k : Nat) (h : 4 * k + 4 ≤ b.length) :
    ser32 (le32At b k) = (b.drop (4 * k)).take 4 := by
  have hl : ((b.drop (4 * k)).take 4).length = 4 := by simp; omega
  have hlt := leNat_lt ((b.drop (4 * k)).take 4)
  rw [hl] at hlt
  have : (BitVec.ofNat 32 (leNat ((b.drop (4 * k)).take 4))).toNat = leNat ((b.drop (4 * k)).take 4) := by
    simp only [BitVec.toNat_ofNat]
    omega
  rw [ser32, le32At, this]
  simpa only [hl] using serNat_leNat ((b.drop (4 * k)).take 4)

/-- The TAG words of a 16-byte tag give the tag back (10_state.md R33). -/
theorem flatMap_ser32_tagWords (t : List Byte) (h : t.length = 16) :
    (tagWords t).toList.flatMap ser32 = t := by
  have e : (tagWords t).toList = [le32At t 0, le32At t 1, le32At t 2, le32At t 3] := rfl
  rw [e]
  simp only [List.flatMap_cons, List.flatMap_nil, List.append_nil]
  rw [ser32_le32At t 0 (by omega), ser32_le32At t 1 (by omega), ser32_le32At t 2 (by omega),
    ser32_le32At t 3 (by omega)]
  match t, h with
  | [_, _, _, _, _, _, _, _, _, _, _, _, _, _, _, _], _ => rfl

/-- A pair is below 2^64. -/
theorem r64_lt (p : RegPair) : r64 p < 2 ^ 64 := by
  have := p.hi.isLt; have := p.lo.isLt
  simp only [r64]; omega

end Sys2Proof.Machine
end

