-- ==== Sys2Proof/Laws/Memory.lean ====
section
/-! SUPPORT. The laws of data memory (20_memory.md R62, R63): a read after a write, everything else unchanged, and the
canonical form kept by every operation. -/

namespace Sys2Proof.Machine

theorem readByte_dropCell_same (m : Memory) (a : Nat) : readByte (dropCell m a) a = unlistedByte := by
  induction m with
  | nil => rfl
  | cons c m ih =>
    by_cases h : c.1 = a
    · simpa [dropCell, h] using ih
    · simpa [dropCell, h, readByte] using ih

theorem readByte_dropCell_other (m : Memory) {a x : Nat} (h : x ≠ a) :
    readByte (dropCell m a) x = readByte m x := by
  induction m with
  | nil => rfl
  | cons c m ih =>
    by_cases hc : c.1 = a
    · have : c.1 ≠ x := fun e => h (e ▸ hc)
      simpa [dropCell, hc, readByte, this, Ne.symm h] using ih
    · have hd : dropCell (c :: m) a = c :: dropCell m a := by simp [dropCell, hc]
      rw [hd, readByte, readByte, ih]

theorem readByte_putCell_other (m : Memory) {a x : Nat} (b : Byte) (h : x ≠ a) :
    readByte (putCell m a b) x = readByte m x := by
  induction m with
  | nil => simp [putCell, readByte, Ne.symm h]
  | cons c m ih =>
    by_cases hc : a < c.1
    · simp [putCell, hc, readByte, Ne.symm h]
    · simp [putCell, hc, readByte, ih]

theorem readByte_putCell_same (m : Memory) (a : Nat) (b : Byte) (h : ∀ c ∈ m, c.1 ≠ a) :
    readByte (putCell m a b) a = b := by
  induction m with
  | nil => simp [putCell, readByte]
  | cons c m ih =>
    by_cases hc : a < c.1
    · simp [putCell, hc, readByte]
    · have h1 : c.1 ≠ a := h c (by simp)
      simp only [putCell, hc, if_false, readByte, h1]
      exact ih fun d hd => h d (by simp [hd])

theorem dropCell_key (m : Memory) (a : Nat) : ∀ c ∈ dropCell m a, c.1 ≠ a := by
  intro c hc
  simpa using (List.mem_filter.mp hc).2

/-- A read after a write to the same address gives the byte written (R63). -/
@[simp] theorem readByte_writeByte_same (m : Memory) (a : Nat) (b : Byte) : readByte (writeByte m a b) a = b := by
  unfold writeByte
  split
  · next h => rw [readByte_dropCell_same, h]
  · exact readByte_putCell_same _ _ _ (dropCell_key m a)

/-- A write changes no other byte (R63). -/
theorem readByte_writeByte_other (m : Memory) {a x : Nat} (b : Byte) (h : x ≠ a) :
    readByte (writeByte m a b) x = readByte m x := by
  unfold writeByte
  split
  · exact readByte_dropCell_other m h
  · rw [readByte_putCell_other _ _ h, readByte_dropCell_other m h]

theorem readByte_writeByte (m : Memory) (a x : Nat) (b : Byte) :
    readByte (writeByte m a b) x = if x = a then b else readByte m x := by
  by_cases h : x = a
  · subst h; simp
  · simp [h, readByte_writeByte_other m b h]

/-- What every address reads after a byte string is written (R63). -/
theorem readByte_writeBytes (m : Memory) (a : Nat) (v : List Byte) (x : Nat) :
    readByte (writeBytes m a v) x = if a ≤ x ∧ x < a + v.length then v.getD (x - a) 0 else readByte m x := by
  induction v generalizing m a with
  | nil =>
    rw [writeBytes, if_neg (by simp only [List.length_nil]; omega)]
  | cons b v ih =>
    rw [writeBytes, ih, readByte_writeByte, List.length_cons]
    by_cases h0 : x = a
    · subst h0
      simp
    · by_cases h1 : a + 1 ≤ x ∧ x < a + 1 + v.length
      · obtain ⟨d, hd⟩ : ∃ d, x - a = d + 1 := ⟨x - a - 1, by omega⟩
        have hd' : x - (a + 1) = d := by omega
        rw [if_pos h1, if_pos (by omega), hd, hd', List.getD_cons_succ]
      · rw [if_neg h1, if_neg h0, if_neg (by omega)]

theorem readByte_writeBytes_outside (m : Memory) (a : Nat) (v : List Byte) (x : Nat)
    (h : x < a ∨ a + v.length ≤ x) : readByte (writeBytes m a v) x = readByte m x := by
  rw [readByte_writeBytes, if_neg (by omega)]

@[simp] theorem readBytes_length (m : Memory) (a n : Nat) : (readBytes m a n).length = n := by
  induction n generalizing a with
  | zero => rfl
  | succ n ih => simp [readBytes, ih]

theorem readBytes_getElem (m : Memory) (a n i : Nat) (h : i < (readBytes m a n).length) :
    (readBytes m a n)[i] = readByte m (a + i) := by
  induction n generalizing a i with
  | zero => simp at h
  | succ n ih =>
    cases i with
    | zero => simp [readBytes]
    | succ i =>
      simp only [readBytes, List.getElem_cons_succ]
      rw [ih]
      congr 1
      omega

/-- A range read depends on its own bytes only (R62). -/
theorem readBytes_congr {m m' : Memory} {a n : Nat}
    (h : ∀ x, a ≤ x → x < a + n → readByte m x = readByte m' x) : readBytes m a n = readBytes m' a n := by
  induction n generalizing a with
  | zero => rfl
  | succ n ih =>
    simp only [readBytes]
    rw [h a (by omega) (by omega), ih fun x h1 h2 => h x (by omega) (by omega)]

theorem readBytes_append (m : Memory) (a n k : Nat) :
    readBytes m a (n + k) = readBytes m a n ++ readBytes m (a + n) k := by
  induction n generalizing a with
  | zero => simp [readBytes]
  | succ n ih =>
    rw [Nat.add_right_comm, readBytes, ih, readBytes, List.cons_append]
    congr 3
    omega

/-- A byte string written and read back (R62, R63). -/
theorem readBytes_writeBytes_same (m : Memory) (a : Nat) (v : List Byte) :
    readBytes (writeBytes m a v) a v.length = v := by
  apply List.ext_getElem (by simp)
  intro i h1 h2
  rw [readBytes_getElem, readByte_writeBytes, if_pos (by omega)]
  simp [List.getD_eq_getElem?_getD, h2]

theorem writeBytes_append (m : Memory) (a : Nat) (v w : List Byte) :
    writeBytes m a (v ++ w) = writeBytes (writeBytes m a v) (a + v.length) w := by
  induction v generalizing m a with
  | nil => rfl
  | cons b v ih =>
    simp only [List.cons_append, writeBytes, ih, List.length_cons]
    congr 1
    omega

/-! ### The canonical form -/

theorem Memory_wf_iff (m : Memory) :
    m.wf = true ↔ m.Pairwise (fun c d => c.1 < d.1) ∧ ∀ c ∈ m, c.2 ≠ unlistedByte := by
  simp [Memory.wf]

theorem dropCell_wf {m : Memory} (h : m.wf = true) (a : Nat) : (dropCell m a).wf = true := by
  rw [Memory_wf_iff] at *
  exact ⟨h.1.filter _, fun c hc => h.2 c (List.mem_filter.mp hc).1⟩

theorem mem_putCell {m : Memory} {a : Nat} {b : Byte} {c : Host.Cell} (h : c ∈ putCell m a b) :
    c = (a, b) ∨ c ∈ m := by
  induction m with
  | nil => simpa [putCell] using h
  | cons d m ih =>
    by_cases hd : a < d.1
    · simpa [putCell, hd] using h
    · simp only [putCell, hd, if_false, List.mem_cons] at h ⊢
      rcases h with h | h
      · exact .inr (.inl h)
      · rcases ih h with h | h
        · exact .inl h
        · exact .inr (.inr h)

theorem putCell_wf {m : Memory} (h : m.wf = true) {a : Nat} {b : Byte} (hb : b ≠ unlistedByte)
    (ha : ∀ c ∈ m, c.1 ≠ a) : (putCell m a b).wf = true := by
  rw [Memory_wf_iff] at *
  obtain ⟨hp, hn⟩ := h
  refine ⟨?_, fun c hc => ?_⟩
  · clear hn
    induction m with
    | nil => simp [putCell]
    | cons d m ih =>
      rw [List.pairwise_cons] at hp
      by_cases hd : a < d.1
      · simp only [putCell, hd, if_true]
        refine List.pairwise_cons.mpr ⟨fun c hc => ?_, List.pairwise_cons.mpr hp⟩
        rcases List.mem_cons.mp hc with rfl | hc
        · exact hd
        · exact hd.trans (hp.1 c hc)
      · simp only [putCell, hd, if_false]
        have hne := ha d (by simp)
        refine List.pairwise_cons.mpr ⟨fun c hc => ?_, ih (fun c hc => ha c (by simp [hc])) hp.2⟩
        rcases mem_putCell hc with rfl | hc
        · show d.1 < a
          omega
        · exact hp.1 c hc
  · rcases mem_putCell hc with rfl | hc
    · exact hb
    · exact hn c hc

/-- Every write keeps the canonical form. -/
theorem writeByte_wf {m : Memory} (h : m.wf = true) (a : Nat) (b : Byte) : (writeByte m a b).wf = true := by
  unfold writeByte
  split
  · exact dropCell_wf h a
  · next hb => exact putCell_wf (dropCell_wf h a) hb (dropCell_key m a)

theorem writeBytes_wf {m : Memory} (h : m.wf = true) (a : Nat) (v : List Byte) : (writeBytes m a v).wf = true := by
  induction v generalizing m a with
  | nil => exact h
  | cons b v ih => exact ih (writeByte_wf h a b) (a + 1)

theorem freeBytes_wf (p : Params) {m : Memory} (h : m.wf = true) (d a n : Nat) :
    (freeBytes p m d a n).wf = true := by
  induction n generalizing m d a with
  | zero => exact h
  | succ n ih =>
    rw [freeBytes]
    apply ih
    split
    · exact writeByte_wf h _ _
    · exact h

/-! ### Where cells stand -/

theorem mem_writeByte {m : Memory} {a : Nat} {b : Byte} {c : Host.Cell} (h : c ∈ writeByte m a b) :
    c.1 = a ∨ c ∈ m := by
  unfold writeByte at h
  split at h
  · exact .inr (List.mem_filter.mp h).1
  · rcases mem_putCell h with rfl | h
    · exact .inl rfl
    · exact .inr (List.mem_filter.mp h).1

theorem mem_writeBytes {m : Memory} {a : Nat} {v : List Byte} {c : Host.Cell} (h : c ∈ writeBytes m a v) :
    (a ≤ c.1 ∧ c.1 < a + v.length) ∨ c ∈ m := by
  induction v generalizing m a with
  | nil => exact .inr h
  | cons b v ih =>
    rcases ih h with h | h
    · exact .inl (by simp only [List.length_cons]; omega)
    · rcases mem_writeByte h with h | h
      · exact .inl (by simp only [List.length_cons]; omega)
      · exact .inr h

theorem mem_freeBytes {p : Params} {m : Memory} {d a n : Nat} {c : Host.Cell} (h : c ∈ freeBytes p m d a n) :
    memAdmit p c.1 = true ∨ c ∈ m := by
  induction n generalizing m d a with
  | zero => exact .inr h
  | succ n ih =>
    rw [freeBytes] at h
    rcases ih h with h | h
    · exact .inl h
    · split at h
      · next ha =>
        rcases mem_writeByte h with h | h
        · exact .inl (h ▸ ha)
        · exact .inr h
      · exact .inr h

/-- Free bytes leave every byte outside the range, and every byte that is not admitted, unchanged
(60_exceptions.md R264). -/
theorem readByte_freeBytes {p : Params} {m : Memory} {d a n x : Nat}
    (h : x < a ∨ a + n ≤ x ∨ memAdmit p x = false) : readByte (freeBytes p m d a n) x = readByte m x := by
  induction n generalizing m d a with
  | zero => rfl
  | succ n ih =>
    have h' : x < a + 1 ∨ a + 1 + n ≤ x ∨ memAdmit p x = false := by
      rcases h with h | h | h
      · exact .inl (by omega)
      · exact .inr (.inl (by omega))
      · exact .inr (.inr h)
    rw [freeBytes, ih h']
    split
    · next ha =>
      refine readByte_writeByte_other _ _ fun hx => ?_
      subst hx
      rcases h with h | h | h
      · omega
      · omega
      · simp [h] at ha
    · rfl

end Sys2Proof.Machine
end

