-- ==== Sys2Proof/Laws/State.lean ====
section
/-! SUPPORT. One lemma per field per update of State, true by rfl, so that no proof unfolds a record update. -/

namespace Sys2Proof.Machine

variable (s : State) (c : Inst) (e : ErrCode) (t : List Byte) (x : PolyCtx) (a n : Nat) (v : List Byte) (w : Word)

/-! `setCore` -/
@[simp] theorem setCore_core : (s.setCore c).core = c := rfl
@[simp] theorem setCore_params : (s.setCore c).params = s.params := rfl
@[simp] theorem setCore_before : (s.setCore c).before = s.before := rfl
@[simp] theorem setCore_after : (s.setCore c).after = s.after := rfl
@[simp] theorem setCore_mem : (s.setCore c).mem = s.mem := rfl
@[simp] theorem setCore_host : (s.setCore c).host = s.host := rfl
@[simp] theorem setCore_turns : (s.setCore c).turns = s.turns := rfl
@[simp] theorem setCore_draws : (s.setCore c).draws = s.draws := rfl
theorem setCore_insts : (s.setCore c).insts = s.before ++ c :: s.after := rfl

/-! `complete` -/
@[simp] theorem complete_core :
    (s.complete e).core = { s.core with errcode := errNumber e, busy := false, done := true } := rfl
@[simp] theorem complete_params : (s.complete e).params = s.params := rfl
@[simp] theorem complete_before : (s.complete e).before = s.before := rfl
@[simp] theorem complete_after : (s.complete e).after = s.after := rfl
@[simp] theorem complete_mem : (s.complete e).mem = s.mem := rfl
@[simp] theorem complete_host : (s.complete e).host = s.host := rfl
@[simp] theorem complete_turns : (s.complete e).turns = s.turns := rfl
@[simp] theorem complete_draws : (s.complete e).draws = s.draws := rfl

/-! `closeCtx` -/
@[simp] theorem closeCtx_core : s.closeCtx.core = { s.core with ctx := PolyCtx.closed } := rfl
@[simp] theorem closeCtx_params : s.closeCtx.params = s.params := rfl
@[simp] theorem closeCtx_before : s.closeCtx.before = s.before := rfl
@[simp] theorem closeCtx_after : s.closeCtx.after = s.after := rfl
@[simp] theorem closeCtx_mem : s.closeCtx.mem = s.mem := rfl
@[simp] theorem closeCtx_host : s.closeCtx.host = s.host := rfl
@[simp] theorem closeCtx_turns : s.closeCtx.turns = s.turns := rfl
@[simp] theorem closeCtx_draws : s.closeCtx.draws = s.draws := rfl

/-! `setTag` -/
@[simp] theorem setTag_core : (s.setTag t).core = { s.core with tag := tagWords t } := rfl
@[simp] theorem setTag_params : (s.setTag t).params = s.params := rfl
@[simp] theorem setTag_before : (s.setTag t).before = s.before := rfl
@[simp] theorem setTag_after : (s.setTag t).after = s.after := rfl
@[simp] theorem setTag_mem : (s.setTag t).mem = s.mem := rfl
@[simp] theorem setTag_host : (s.setTag t).host = s.host := rfl
@[simp] theorem setTag_turns : (s.setTag t).turns = s.turns := rfl
@[simp] theorem setTag_draws : (s.setTag t).draws = s.draws := rfl

/-! `setCtx` -/
@[simp] theorem setCtx_core : (s.setCtx x).core = { s.core with ctx := x } := rfl
@[simp] theorem setCtx_params : (s.setCtx x).params = s.params := rfl
@[simp] theorem setCtx_before : (s.setCtx x).before = s.before := rfl
@[simp] theorem setCtx_after : (s.setCtx x).after = s.after := rfl
@[simp] theorem setCtx_mem : (s.setCtx x).mem = s.mem := rfl
@[simp] theorem setCtx_host : (s.setCtx x).host = s.host := rfl
@[simp] theorem setCtx_turns : (s.setCtx x).turns = s.turns := rfl
@[simp] theorem setCtx_draws : (s.setCtx x).draws = s.draws := rfl

/-! `setCtr33` -/
@[simp] theorem setCtr33_core :
    (s.setCtr33 n).core = { s.core with counter := BitVec.ofNat 32 (n % 2 ^ 32), ctrExh := n / 2 ^ 32 != 0 } := rfl
@[simp] theorem setCtr33_params : (s.setCtr33 n).params = s.params := rfl
@[simp] theorem setCtr33_before : (s.setCtr33 n).before = s.before := rfl
@[simp] theorem setCtr33_after : (s.setCtr33 n).after = s.after := rfl
@[simp] theorem setCtr33_mem : (s.setCtr33 n).mem = s.mem := rfl
@[simp] theorem setCtr33_host : (s.setCtr33 n).host = s.host := rfl
@[simp] theorem setCtr33_turns : (s.setCtr33 n).turns = s.turns := rfl
@[simp] theorem setCtr33_draws : (s.setCtr33 n).draws = s.draws := rfl

/-! `setHeld` -/
@[simp] theorem setHeld_core (b : Bool) : (s.setHeld b).core = { s.core with held := b } := rfl
@[simp] theorem setHeld_params (b : Bool) : (s.setHeld b).params = s.params := rfl
@[simp] theorem setHeld_before (b : Bool) : (s.setHeld b).before = s.before := rfl
@[simp] theorem setHeld_after (b : Bool) : (s.setHeld b).after = s.after := rfl
@[simp] theorem setHeld_mem (b : Bool) : (s.setHeld b).mem = s.mem := rfl
@[simp] theorem setHeld_host (b : Bool) : (s.setHeld b).host = s.host := rfl
@[simp] theorem setHeld_turns (b : Bool) : (s.setHeld b).turns = s.turns := rfl
@[simp] theorem setHeld_draws (b : Bool) : (s.setHeld b).draws = s.draws := rfl

/-! `memWrite` -/
@[simp] theorem memWrite_core : (s.memWrite a v).core = s.core := rfl
@[simp] theorem memWrite_params : (s.memWrite a v).params = s.params := rfl
@[simp] theorem memWrite_before : (s.memWrite a v).before = s.before := rfl
@[simp] theorem memWrite_after : (s.memWrite a v).after = s.after := rfl
@[simp] theorem memWrite_mem : (s.memWrite a v).mem = writeBytes s.mem a v := rfl
@[simp] theorem memWrite_host : (s.memWrite a v).host = s.host := rfl
@[simp] theorem memWrite_turns : (s.memWrite a v).turns = s.turns := rfl
@[simp] theorem memWrite_draws : (s.memWrite a v).draws = s.draws := rfl

/-! `scribble` -/
@[simp] theorem scribble_core : (s.scribble a n).core = s.core := rfl
@[simp] theorem scribble_params : (s.scribble a n).params = s.params := rfl
@[simp] theorem scribble_before : (s.scribble a n).before = s.before := rfl
@[simp] theorem scribble_after : (s.scribble a n).after = s.after := rfl
@[simp] theorem scribble_mem : (s.scribble a n).mem = freeBytes s.params s.mem s.draws a n := rfl
@[simp] theorem scribble_host : (s.scribble a n).host = s.host := rfl
@[simp] theorem scribble_turns : (s.scribble a n).turns = s.turns := rfl
@[simp] theorem scribble_draws : (s.scribble a n).draws = s.draws + n := rfl

/-! `memRead`: only data memory matters -/
@[simp] theorem memRead_setCore : (s.setCore c).memRead a n = s.memRead a n := rfl
@[simp] theorem memRead_closeCtx : s.closeCtx.memRead a n = s.memRead a n := rfl
@[simp] theorem memRead_setTag : (s.setTag t).memRead a n = s.memRead a n := rfl
@[simp] theorem memRead_complete : (s.complete e).memRead a n = s.memRead a n := rfl

/-! The operand forms do not depend on the fields a command may write. -/
@[simp] theorem keyBytes_ctx : keyBytes { c with ctx := x } = keyBytes c := rfl
@[simp] theorem nonceBytes_ctx : nonceBytes { c with ctx := x } = nonceBytes c := rfl
@[simp] theorem tagBytes_ctx : tagBytes { c with ctx := x } = tagBytes c := rfl

/-! `setVar` and `setPos`: only the host agent changes -/
@[simp] theorem setVar_core : (s.setVar n w).core = s.core := rfl
@[simp] theorem setVar_params : (s.setVar n w).params = s.params := rfl
@[simp] theorem setVar_before : (s.setVar n w).before = s.before := rfl
@[simp] theorem setVar_after : (s.setVar n w).after = s.after := rfl
@[simp] theorem setVar_mem : (s.setVar n w).mem = s.mem := rfl
@[simp] theorem setVar_turns : (s.setVar n w).turns = s.turns := rfl
@[simp] theorem setVar_draws : (s.setVar n w).draws = s.draws := rfl
@[simp] theorem setVar_insts : (s.setVar n w).insts = s.insts := rfl
@[simp] theorem setPos_core : (s.setPos n).core = s.core := rfl
@[simp] theorem setPos_params : (s.setPos n).params = s.params := rfl
@[simp] theorem setPos_before : (s.setPos n).before = s.before := rfl
@[simp] theorem setPos_after : (s.setPos n).after = s.after := rfl
@[simp] theorem setPos_mem : (s.setPos n).mem = s.mem := rfl
@[simp] theorem setPos_turns : (s.setPos n).turns = s.turns := rfl
@[simp] theorem setPos_draws : (s.setPos n).draws = s.draws := rfl
@[simp] theorem setPos_insts : (s.setPos n).insts = s.insts := rfl

end Sys2Proof.Machine
end

