-- ==== Sys2Proof/Laws/Ops.lean ====
section
/-! SUPPORT. One lemma per shared operation: what the range checks say (20_memory.md R64, R65, R66) and what bringing an
instance into focus keeps. -/

namespace Sys2Proof.Machine

/-- R64: in range. -/
theorem inRange_iff (p : Params) (a n : Nat) : inRange p a n = true ↔ n = 0 ∨ a + n ≤ 2 ^ p.paW := by
  simp [inRange]

theorem inRange_false_iff (p : Params) (a n : Nat) : inRange p a n = false ↔ n ≠ 0 ∧ 2 ^ p.paW < a + n := by
  rw [← Bool.not_eq_true, inRange_iff]; omega

/-- R65: admitted. -/
theorem admitted_iff (p : Params) (a n : Nat) :
    admitted p a n = true ↔ ∀ i, i < n → memAdmit p (a + i) = true := by
  induction n generalizing a with
  | zero => simp [admitted]
  | succ n ih =>
    simp only [admitted, Bool.and_eq_true, ih]
    constructor
    · rintro ⟨h0, h⟩ i hi
      cases i with
      | zero => exact h0
      | succ i =>
        have := h i (by omega)
        rwa [Nat.add_assoc, Nat.add_comm 1 i] at this
    · intro h
      refine ⟨h 0 (by omega), fun i hi => ?_⟩
      have := h (i + 1) (by omega)
      rwa [Nat.add_assoc, Nat.add_comm 1 i]

theorem admitted_false_iff (p : Params) (a n : Nat) :
    admitted p a n = false ↔ ∃ i, i < n ∧ memAdmit p (a + i) = false := by
  rw [← Bool.not_eq_true, admitted_iff]; simp

/-- A byte of an admitted range is admitted (R65). -/
theorem memAdmit_of_admitted {p : Params} {a n x : Nat} (h : admitted p a n = true) (h1 : a ≤ x) (h2 : x < a + n) :
    memAdmit p x = true := by
  have := (admitted_iff p a n).mp h (x - a) (by omega)
  rwa [Nat.add_sub_cancel' h1] at this

/-- R66: disjoint. -/
theorem disjoint_iff (x y : Range) :
    disjoint x y = true ↔ x.len = 0 ∨ y.len = 0 ∨ x.addr + x.len ≤ y.addr ∨ y.addr + y.len ≤ x.addr := by
  simp [disjoint, or_assoc]

theorem disjoint_false_iff (x y : Range) :
    disjoint x y = false ↔ x.len ≠ 0 ∧ y.len ≠ 0 ∧ y.addr < x.addr + x.len ∧ x.addr < y.addr + y.len := by
  rw [← Bool.not_eq_true, disjoint_iff]; omega

theorem disjoint_comm (x y : Range) : disjoint x y = disjoint y x := by
  rw [Bool.eq_iff_iff, disjoint_iff, disjoint_iff]; omega

/-- Two ranges share a byte exactly when they are not disjoint (R66). -/
theorem disjoint_false_iff_common (x y : Range) :
    disjoint x y = false ↔ ∃ a, inSpan x a = true ∧ inSpan y a = true := by
  rw [disjoint_false_iff]
  simp only [inSpan, Bool.and_eq_true, decide_eq_true_eq]
  constructor
  · rintro ⟨h1, h2, h3, h4⟩
    exact ⟨max x.addr y.addr, by omega⟩
  · rintro ⟨a, ha⟩
    omega

/-! ### Focus -/

/-- Bringing an instance into focus gives the instance of that number. -/
theorem focus_eq_some {s s' : State} {k : Nat} (h : s.focus k = some s') :
    s.insts[k]? = some s'.core ∧ s' = { s with before := s.insts.take k, core := s'.core, after := s'.after } ∧
      s'.insts = s.insts := by
  unfold State.focus at h
  split at h
  · simp at h
  · next c rest hd =>
    obtain rfl := Option.some.inj h
    refine ⟨?_, rfl, ?_⟩
    · have := List.getElem?_drop (xs := s.insts) (i := k) (j := 0)
      rw [hd] at this
      simpa using this.symm
    · show s.insts.take k ++ c :: rest = s.insts
      rw [← hd, List.take_append_drop]

/-- Every instance number of the platform can be brought into focus. -/
theorem focus_isSome {s : State} {k : Nat} (h : k < s.insts.length) : ∃ s', s.focus k = some s' := by
  unfold State.focus
  split
  · next hd => rw [List.drop_eq_nil_iff] at hd; omega
  · exact ⟨_, rfl⟩

theorem focus_insts {s s' : State} {k : Nat} (h : s.focus k = some s') : s'.insts = s.insts := (focus_eq_some h).2.2

theorem focus_params {s s' : State} {k : Nat} (h : s.focus k = some s') : s'.params = s.params := by
  rw [(focus_eq_some h).2.1]

theorem focus_mem {s s' : State} {k : Nat} (h : s.focus k = some s') : s'.mem = s.mem := by
  rw [(focus_eq_some h).2.1]

theorem mem_insts_core (s : State) : s.core ∈ s.insts := by simp [State.insts]

/-- The instance an address belongs to is one whose register block holds it (10_state.md R23). -/
theorem core_mem_of_focus {s s' : State} {k : Nat} (h : s.focus k = some s') : s'.core ∈ s.insts := by
  rw [← focus_insts h]; exact mem_insts_core s'

end Sys2Proof.Machine
end

