-- ==== Sys2Proof/Laws/Chacha20.lean ====
section
/-! SUPPORT. ChaCha20's laws: what a quarter round touches and depends on (40_chacha20.md R113), the keystream's lengths and
splitting at whole blocks, and what the counter check bounds (R118, R119, R120). -/

namespace Sys2Proof.Machine

/-! ### The matrix and the quarter round (R111, R113) -/

theorem matrix_set_get (v : Matrix) (i e : Fin 16) (x : Word) : (v.set i x)[e] = if i = e then x else v[e] := by
  simp [Vector.getElem_set, Fin.ext_iff]

theorem matrix_set_other (v : Matrix) {i e : Fin 16} (h : i ≠ e) (x : Word) : (v.set i x)[e] = v[e] := by
  rw [matrix_set_get, if_neg h]

/-- A quarter round touches its four words only. -/
theorem quarterRound_other (w : Matrix) {a b c d e : Fin 16} (ha : a ≠ e) (hb : b ≠ e) (hc : c ≠ e) (hd : d ≠ e) :
    (quarterRound w a b c d)[e] = w[e] := by
  unfold quarterRound
  simp only [matrix_set_other _ ha, matrix_set_other _ hb, matrix_set_other _ hc, matrix_set_other _ hd]

/-- Two matrices that agree on the given words agree on them after equal words are put in one place. -/
theorem matrix_set_agree {l : List (Fin 16)} {w v : Matrix} (h : ∀ e ∈ l, w[e] = v[e]) (i : Fin 16) {x y : Word}
    (hx : x = y) : ∀ e ∈ l, (w.set i x)[e] = (v.set i y)[e] := by
  intro e he
  rw [matrix_set_get, matrix_set_get, h e he, hx]

/-- A quarter round depends on its four words only. -/
theorem quarterRound_agree {w v : Matrix} {a b c d : Fin 16} (h : ∀ e ∈ [a, b, c, d], w[e] = v[e]) :
    ∀ e ∈ [a, b, c, d], (quarterRound w a b c d)[e] = (quarterRound v a b c d)[e] := by
  have ha : a ∈ [a, b, c, d] := by simp
  have hb : b ∈ [a, b, c, d] := by simp
  have hc : c ∈ [a, b, c, d] := by simp
  have hd : d ∈ [a, b, c, d] := by simp
  have h1 := matrix_set_agree h a (congrArg₂ (· + ·) (h a ha) (h b hb))
  have h2 := matrix_set_agree h1 d (congrArg (BitVec.rotateLeft · 16) (congrArg₂ (· ^^^ ·) (h1 d hd) (h1 a ha)))
  have h3 := matrix_set_agree h2 c (congrArg₂ (· + ·) (h2 c hc) (h2 d hd))
  have h4 := matrix_set_agree h3 b (congrArg (BitVec.rotateLeft · 12) (congrArg₂ (· ^^^ ·) (h3 b hb) (h3 c hc)))
  have h5 := matrix_set_agree h4 a (congrArg₂ (· + ·) (h4 a ha) (h4 b hb))
  have h6 := matrix_set_agree h5 d (congrArg (BitVec.rotateLeft · 8) (congrArg₂ (· ^^^ ·) (h5 d hd) (h5 a ha)))
  have h7 := matrix_set_agree h6 c (congrArg₂ (· + ·) (h6 c hc) (h6 d hd))
  exact matrix_set_agree h7 b (congrArg (BitVec.rotateLeft · 7) (congrArg₂ (· ^^^ ·) (h7 b hb) (h7 c hc)))

/-! ### The keystream (R118, R119, R120) -/

@[simp] theorem chachaBlock_length (k n : List Byte) (c : Word) : (chachaBlock k n c).length = 64 := by
  simp only [chachaBlock, flatMap_ser32_length, Vector.length_toList]

@[simp] theorem blockRun_length (k n : List Byte) (c0 nb : Nat) : (blockRun k n c0 nb).length = 64 * nb := by
  induction nb generalizing c0 with
  | zero => rfl
  | succ nb ih => simp [blockRun, ih]; omega

theorem blockCount_covers (len : Nat) : len ≤ 64 * blockCount len := by
  unfold blockCount; omega

@[simp] theorem keystream_length (k n : List Byte) (c0 len : Nat) : (keystream k n c0 len).length = len := by
  simp [keystream, blockCount_covers]

@[simp] theorem xorStream_length (k n : List Byte) (c0 : Nat) (d : List Byte) :
    (xorStream k n c0 d).length = d.length := by simp [xorStream]

theorem xorStream_getElem (k n : List Byte) (c0 : Nat) (d : List Byte) (i : Nat) (h : i < (xorStream k n c0 d).length)
    (h1 : i < d.length) (h2 : i < (keystream k n c0 d.length).length) :
    (xorStream k n c0 d)[i] = d[i] ^^^ (keystream k n c0 d.length)[i] := by simp [xorStream]

/-- Consecutive blocks, run together (R119). -/
theorem blockRun_append (k n : List Byte) (c0 a b : Nat) :
    blockRun k n c0 (a + b) = blockRun k n c0 a ++ blockRun k n (c0 + a) b := by
  induction a generalizing c0 with
  | zero => simp [blockRun]
  | succ a ih =>
    rw [Nat.add_right_comm, blockRun, ih, blockRun, List.append_assoc]
    congr 3
    omega

/-- The blocks of two lengths add up when the first is a multiple of 64 (R119). -/
theorem blockCount_add {a b : Nat} (h : 64 ∣ a) : blockCount (a + b) = blockCount a + blockCount b := by
  unfold blockCount; omega

theorem blockCount_mul {a : Nat} (h : 64 ∣ a) : 64 * blockCount a = a := by
  unfold blockCount; omega

/-- The keystream splits at a whole block (R119). -/
theorem keystream_append {a : Nat} (k n : List Byte) (c0 b : Nat) (h : 64 ∣ a) :
    keystream k n c0 (a + b) = keystream k n c0 a ++ keystream k n (c0 + blockCount a) b := by
  have hl : (blockRun k n c0 (blockCount a)).length = a := by rw [blockRun_length, blockCount_mul h]
  have ht : (blockRun k n c0 (blockCount a)).take a = blockRun k n c0 (blockCount a) :=
    List.take_of_length_le (by omega)
  rw [keystream, keystream, keystream, blockCount_add h, blockRun_append, ht, List.take_append, hl,
    List.take_of_length_le (by omega)]
  congr 2
  omega

/-- The empty keystream (R122: no block for L = 0). -/
@[simp] theorem blockCount_zero : blockCount 0 = 0 := rfl

/-- The logical counter after `setCtr33` (R122). -/
theorem ctr33_setCtr33 (s : State) {n : Nat} (h : n ≤ 2 ^ 32) : ctr33 (s.setCtr33 n).core = n := by
  simp only [setCtr33_core, ctr33, BitVec.toNat_ofNat]
  by_cases h' : n = 2 ^ 32
  · subst h'; decide
  · have h0 : n / 2 ^ 32 = 0 := Nat.div_eq_of_lt (by omega)
    have h1 : n % 2 ^ 32 % 2 ^ 32 = n := by omega
    rw [h0, h1]
    simp

end Sys2Proof.Machine
end

