-- ==== Sys2Proof/Laws/Decode.lean ====
section
/-! SUPPORT. Decoding and encoding (30_encoding.md R90, R91). -/

namespace Sys2Proof

/-- A word is its RSVD and OPCODE fields (R90). -/
theorem word_fields (w : Word) : w = rsvdOf w ++ opcodeOf w := by
  apply BitVec.eq_of_getLsbD_eq
  intro i hi
  simp only [rsvdOf, opcodeOf, BitVec.getLsbD_append, BitVec.getLsbD_extractLsb']
  by_cases h : i < 8
  · simp [h]
  · have : i - 8 < 24 := by omega
    have e : 8 + (i - 8) = i := by omega
    simp [h, this, e]

/-- The opcode map read backwards. -/
theorem decodeOpcode_eq_some {op : BitVec 8} {i : Instr} (h : decodeOpcode op = some i) :
    op = opcodeOf (encode i) := by
  apply BitVec.eq_of_toNat_eq
  unfold decodeOpcode at h
  split at h <;> simp only [Option.some.injEq, reduceCtorEq] at h <;> (subst h; simpa using ‹op.toNat = _›)

theorem encode_rsvd (i : Instr) : rsvdOf (encode i) = 0 := by cases i <;> rfl

end Sys2Proof
end

