-- ==== Sys2Proof/Laws/Poly1305.lean ====
section
/-! SUPPORT. Poly1305's laws: bounds, blocks and the incremental form's bookkeeping (41_poly1305.md R151 to R157). -/

namespace Sys2Proof.Machine

theorem polyP_pos : 0 < polyP := by decide

/-- Every accumulator value is reduced (R152, R154). -/
theorem accStep_lt (r : Half) (acc : Nat) (b : List Byte) : accStep r acc b < polyP := Nat.mod_lt _ polyP_pos

@[simp] theorem finalTag_length (acc : Nat) (s : Half) : (finalTag acc s).length = 16 := by simp [finalTag]

@[simp] theorem poly1305_length (k m : List Byte) : (poly1305 k m).length = 16 := by simp [poly1305]

@[simp] theorem finalOf_length (x : PolyCtx) : (finalOf x).length = 16 := by simp [finalOf]

/-- Clamping twice is clamping once (R151). -/
@[simp] theorem clamp_clamp (r : Half) : clamp (clamp r) = clamp r := by simp [clamp, BitVec.and_assoc]

@[simp] theorem clamp_keyR (k : List Byte) : clamp (keyR k) = keyR k := clamp_clamp _

/-! ### Blocks -/

@[simp] theorem polyBlocks_nil : polyBlocks [] = [] := rfl

theorem polyBlocks_full (b m : List Byte) (hb : b.length = 16) : polyBlocks (b ++ m) = b :: polyBlocks m := by
  have hq : ((b ++ m).length + 15) / 16 = (m.length + 15) / 16 + 1 := by simp [hb]; omega
  simp only [polyBlocks, hq, List.range_succ_eq_map, List.map_cons, List.map_map]
  congr 1
  · simp [← hb]
  · apply List.map_congr_left
    intro i _
    have : (b ++ m).drop (16 * (i + 1)) = m.drop (16 * i) := by
      rw [List.drop_append, List.drop_eq_nil_of_le (by omega), hb]
      simp only [List.nil_append]
      congr 1
    simp [this]

theorem polyBlocks_short (b : List Byte) (h0 : b ≠ []) (h : b.length ≤ 16) : polyBlocks b = [b] := by
  have hl : 0 < b.length := List.length_pos_iff.mpr h0
  have hq : (b.length + 15) / 16 = 1 := by omega
  simp only [polyBlocks, hq, List.range_one, List.map_cons, List.map_nil, Nat.mul_zero, List.drop_zero]
  rw [List.take_of_length_le h]

/-! ### Absorbing -/

theorem absorbFull_acc_lt {r : Half} {q acc : Nat} {b : List Byte} (h : acc < polyP) :
    (absorbFull r q acc b).1 < polyP := by
  induction q generalizing acc b with
  | zero => exact h
  | succ q ih => exact ih (accStep_lt _ _ _)

theorem absorbFull_rest (r : Half) (q acc : Nat) (b : List Byte) : (absorbFull r q acc b).2 = b.drop (16 * q) := by
  induction q generalizing acc b with
  | zero => simp [absorbFull]
  | succ q ih =>
    rw [absorbFull, ih, List.drop_drop, Nat.mul_succ, Nat.add_comm]

/-- The buffer holds 0..15 bytes after every Absorb (R157). -/
theorem absorb_pbuf_length (x : PolyCtx) (d : List Byte) :
    (absorb x d).pbuf.length = (x.pbuf.length + d.length) % 16 := by
  simp only [absorb, absorbFull_rest, List.length_drop, List.length_append]
  omega

@[simp] theorem absorb_r (x : PolyCtx) (d : List Byte) : (absorb x d).r = x.r := rfl
@[simp] theorem absorb_s (x : PolyCtx) (d : List Byte) : (absorb x d).s = x.s := rfl
@[simp] theorem absorb_valid (x : PolyCtx) (d : List Byte) : (absorb x d).valid = x.valid := rfl

theorem absorb_acc_lt {x : PolyCtx} (h : x.acc < polyP) (d : List Byte) : (absorb x d).acc < polyP :=
  absorbFull_acc_lt h

/-- What is still to come does not change the full blocks taken first. -/
theorem absorbFull_append (r : Half) (q acc : Nat) (b d : List Byte) (h : 16 * q ≤ b.length) :
    absorbFull r q acc (b ++ d) = ((absorbFull r q acc b).1, (absorbFull r q acc b).2 ++ d) := by
  induction q generalizing acc b with
  | zero => rfl
  | succ q ih =>
    have h1 : (b ++ d).take 16 = b.take 16 := List.take_append_of_le_length (by omega)
    have h2 : (b ++ d).drop 16 = b.drop 16 ++ d := List.drop_append_of_le_length (by omega)
    rw [absorbFull, h1, h2, ih _ _ (by simp; omega), absorbFull]

theorem absorbFull_add (r : Half) (p q acc : Nat) (b : List Byte) :
    absorbFull r (p + q) acc b = absorbFull r q (absorbFull r p acc b).1 (absorbFull r p acc b).2 := by
  induction p generalizing acc b with
  | zero => simp [absorbFull]
  | succ p ih => rw [Nat.add_right_comm, absorbFull, ih, absorbFull]

end Sys2Proof.Machine
end

