-- ==== Sys2Proof/Laws/Rules.lean ====
section
/-! SUPPORT. Each command rule branch by branch: one lemma per outcome under its condition, and one lemma that says all
it can do (the pseudocode of 40_chacha20.md R121, R122, 41_poly1305.md R160 to R162, 42_aead.md R194, R196). -/

namespace Sys2Proof.Machine

/-! ### CHACHA20_BLOCK (R121) -/

theorem chacha20Block_counterRange (s : State)
    (h0 : 2 ^ 32 < ctr33 s.core + 1) :
    chacha20BlockRule s = s.complete .counterRange := by
  unfold chacha20BlockRule
  exact if_pos h0

theorem chacha20Block_address (s : State)
    (h0 : ctr33 s.core + 1 ≤ 2 ^ 32)
    (h1 : inRange s.params (r64 s.core.dst) 64 = false) :
    chacha20BlockRule s = s.complete .address := by
  unfold chacha20BlockRule
  refine (if_neg (Nat.not_lt.mpr h0)).trans ?_
  exact if_pos (by simp [h1])

theorem chacha20Block_busError (s : State)
    (h0 : ctr33 s.core + 1 ≤ 2 ^ 32)
    (h1 : inRange s.params (r64 s.core.dst) 64 = true)
    (h2 : admitted s.params (r64 s.core.dst) 64 = false) :
    chacha20BlockRule s = (s.scribble (r64 s.core.dst) 64).complete .busError := by
  unfold chacha20BlockRule
  refine (if_neg (Nat.not_lt.mpr h0)).trans ?_
  refine (if_neg (by simp [h1])).trans ?_
  exact if_pos (by simp [h2])

theorem chacha20Block_ok (s : State)
    (h0 : ctr33 s.core + 1 ≤ 2 ^ 32)
    (h1 : inRange s.params (r64 s.core.dst) 64 = true)
    (h2 : admitted s.params (r64 s.core.dst) 64 = true) :
    chacha20BlockRule s = (s.memWrite (r64 s.core.dst) (chachaBlock (keyBytes s.core) (nonceBytes s.core)
      (BitVec.ofNat 32 (ctr33 s.core)))).complete .none := by
  unfold chacha20BlockRule
  refine (if_neg (Nat.not_lt.mpr h0)).trans ?_
  refine (if_neg (by simp [h1])).trans ?_
  refine (if_neg (by simp [h2])).trans ?_
  rfl

/-- Everything CHACHA20_BLOCK can do, in the order of its pseudocode. -/
theorem chacha20Block_cases (s : State) :
    (2 ^ 32 < ctr33 s.core + 1 ∧
      chacha20BlockRule s = s.complete .counterRange) ∨
    (ctr33 s.core + 1 ≤ 2 ^ 32 ∧
      inRange s.params (r64 s.core.dst) 64 = false ∧
      chacha20BlockRule s = s.complete .address) ∨
    (ctr33 s.core + 1 ≤ 2 ^ 32 ∧
      inRange s.params (r64 s.core.dst) 64 = true ∧
      admitted s.params (r64 s.core.dst) 64 = false ∧
      chacha20BlockRule s = (s.scribble (r64 s.core.dst) 64).complete .busError) ∨
    (ctr33 s.core + 1 ≤ 2 ^ 32 ∧
      inRange s.params (r64 s.core.dst) 64 = true ∧
      admitted s.params (r64 s.core.dst) 64 = true ∧
      chacha20BlockRule s = (s.memWrite (r64 s.core.dst) (chachaBlock (keyBytes s.core) (nonceBytes s.core)
      (BitVec.ofNat 32 (ctr33 s.core)))).complete .none) := by
  by_cases h0 : ctr33 s.core + 1 ≤ 2 ^ 32
  swap
  · rw [not_le] at h0
    exact .inl ⟨h0, chacha20Block_counterRange s h0⟩
  by_cases h1 : inRange s.params (r64 s.core.dst) 64 = true
  swap
  · rw [Bool.not_eq_true] at h1
    exact .inr (.inl ⟨h0, h1, chacha20Block_address s h0 h1⟩)
  by_cases h2 : admitted s.params (r64 s.core.dst) 64 = true
  swap
  · rw [Bool.not_eq_true] at h2
    exact .inr (.inr (.inl ⟨h0, h1, h2, chacha20Block_busError s h0 h1 h2⟩))
  exact .inr (.inr (.inr ⟨h0, h1, h2, chacha20Block_ok s h0 h1 h2⟩))

/-! ### CHACHA20_XOR (R122) -/

theorem chacha20Xor_counterRange (s : State)
    (h0 : 2 ^ 32 < ctr33 s.core + blockCount (r64 s.core.len)) :
    chacha20XorRule s = s.complete .counterRange := by
  unfold chacha20XorRule
  exact if_pos h0

theorem chacha20Xor_address (s : State)
    (h0 : ctr33 s.core + blockCount (r64 s.core.len) ≤ 2 ^ 32)
    (h1 : (inRange s.params (r64 s.core.src) (r64 s.core.len) && inRange s.params (r64 s.core.dst) (r64 s.core.len)) = false) :
    chacha20XorRule s = s.complete .address := by
  unfold chacha20XorRule
  refine (if_neg (Nat.not_lt.mpr h0)).trans ?_
  exact if_pos (by simp [h1])

theorem chacha20Xor_overlap (s : State)
    (h0 : ctr33 s.core + blockCount (r64 s.core.len) ≤ 2 ^ 32)
    (h1 : (inRange s.params (r64 s.core.src) (r64 s.core.len) && inRange s.params (r64 s.core.dst) (r64 s.core.len)) = true)
    (h2 : (r64 s.core.src == r64 s.core.dst ||
      disjoint ⟨r64 s.core.src, r64 s.core.len⟩ ⟨r64 s.core.dst, r64 s.core.len⟩) = false) :
    chacha20XorRule s = s.complete .overlap := by
  unfold chacha20XorRule
  refine (if_neg (Nat.not_lt.mpr h0)).trans ?_
  refine (if_neg (by simp [h1])).trans ?_
  exact if_pos (by simp [h2])

theorem chacha20Xor_busError (s : State)
    (h0 : ctr33 s.core + blockCount (r64 s.core.len) ≤ 2 ^ 32)
    (h1 : (inRange s.params (r64 s.core.src) (r64 s.core.len) && inRange s.params (r64 s.core.dst) (r64 s.core.len)) = true)
    (h2 : (r64 s.core.src == r64 s.core.dst ||
      disjoint ⟨r64 s.core.src, r64 s.core.len⟩ ⟨r64 s.core.dst, r64 s.core.len⟩) = true)
    (h3 : (admitted s.params (r64 s.core.src) (r64 s.core.len) && admitted s.params (r64 s.core.dst) (r64 s.core.len)) = false) :
    chacha20XorRule s = (s.scribble (r64 s.core.dst) (r64 s.core.len)).complete .busError := by
  unfold chacha20XorRule
  refine (if_neg (Nat.not_lt.mpr h0)).trans ?_
  refine (if_neg (by simp [h1])).trans ?_
  refine (if_neg (by simp [h2])).trans ?_
  exact if_pos (by simp [h3])

theorem chacha20Xor_ok (s : State)
    (h0 : ctr33 s.core + blockCount (r64 s.core.len) ≤ 2 ^ 32)
    (h1 : (inRange s.params (r64 s.core.src) (r64 s.core.len) && inRange s.params (r64 s.core.dst) (r64 s.core.len)) = true)
    (h2 : (r64 s.core.src == r64 s.core.dst ||
      disjoint ⟨r64 s.core.src, r64 s.core.len⟩ ⟨r64 s.core.dst, r64 s.core.len⟩) = true)
    (h3 : (admitted s.params (r64 s.core.src) (r64 s.core.len) && admitted s.params (r64 s.core.dst) (r64 s.core.len)) = true) :
    chacha20XorRule s = ((s.memWrite (r64 s.core.dst) (xorStream (keyBytes s.core) (nonceBytes s.core) (ctr33 s.core)
      (s.memRead (r64 s.core.src) (r64 s.core.len)))).setCtr33 (ctr33 s.core + blockCount (r64 s.core.len))).complete .none := by
  unfold chacha20XorRule
  refine (if_neg (Nat.not_lt.mpr h0)).trans ?_
  refine (if_neg (by simp [h1])).trans ?_
  refine (if_neg (by simp [h2])).trans ?_
  refine (if_neg (by simp [h3])).trans ?_
  rfl

/-- Everything CHACHA20_XOR can do, in the order of its pseudocode. -/
theorem chacha20Xor_cases (s : State) :
    (2 ^ 32 < ctr33 s.core + blockCount (r64 s.core.len) ∧
      chacha20XorRule s = s.complete .counterRange) ∨
    (ctr33 s.core + blockCount (r64 s.core.len) ≤ 2 ^ 32 ∧
      (inRange s.params (r64 s.core.src) (r64 s.core.len) && inRange s.params (r64 s.core.dst) (r64 s.core.len)) = false ∧
      chacha20XorRule s = s.complete .address) ∨
    (ctr33 s.core + blockCount (r64 s.core.len) ≤ 2 ^ 32 ∧
      (inRange s.params (r64 s.core.src) (r64 s.core.len) && inRange s.params (r64 s.core.dst) (r64 s.core.len)) = true ∧
      (r64 s.core.src == r64 s.core.dst ||
      disjoint ⟨r64 s.core.src, r64 s.core.len⟩ ⟨r64 s.core.dst, r64 s.core.len⟩) = false ∧
      chacha20XorRule s = s.complete .overlap) ∨
    (ctr33 s.core + blockCount (r64 s.core.len) ≤ 2 ^ 32 ∧
      (inRange s.params (r64 s.core.src) (r64 s.core.len) && inRange s.params (r64 s.core.dst) (r64 s.core.len)) = true ∧
      (r64 s.core.src == r64 s.core.dst ||
      disjoint ⟨r64 s.core.src, r64 s.core.len⟩ ⟨r64 s.core.dst, r64 s.core.len⟩) = true ∧
      (admitted s.params (r64 s.core.src) (r64 s.core.len) && admitted s.params (r64 s.core.dst) (r64 s.core.len)) = false ∧
      chacha20XorRule s = (s.scribble (r64 s.core.dst) (r64 s.core.len)).complete .busError) ∨
    (ctr33 s.core + blockCount (r64 s.core.len) ≤ 2 ^ 32 ∧
      (inRange s.params (r64 s.core.src) (r64 s.core.len) && inRange s.params (r64 s.core.dst) (r64 s.core.len)) = true ∧
      (r64 s.core.src == r64 s.core.dst ||
      disjoint ⟨r64 s.core.src, r64 s.core.len⟩ ⟨r64 s.core.dst, r64 s.core.len⟩) = true ∧
      (admitted s.params (r64 s.core.src) (r64 s.core.len) && admitted s.params (r64 s.core.dst) (r64 s.core.len)) = true ∧
      chacha20XorRule s = ((s.memWrite (r64 s.core.dst) (xorStream (keyBytes s.core) (nonceBytes s.core) (ctr33 s.core)
      (s.memRead (r64 s.core.src) (r64 s.core.len)))).setCtr33 (ctr33 s.core + blockCount (r64 s.core.len))).complete .none) := by
  by_cases h0 : ctr33 s.core + blockCount (r64 s.core.len) ≤ 2 ^ 32
  swap
  · rw [not_le] at h0
    exact .inl ⟨h0, chacha20Xor_counterRange s h0⟩
  by_cases h1 : (inRange s.params (r64 s.core.src) (r64 s.core.len) && inRange s.params (r64 s.core.dst) (r64 s.core.len)) = true
  swap
  · rw [Bool.not_eq_true] at h1
    exact .inr (.inl ⟨h0, h1, chacha20Xor_address s h0 h1⟩)
  by_cases h2 : (r64 s.core.src == r64 s.core.dst ||
      disjoint ⟨r64 s.core.src, r64 s.core.len⟩ ⟨r64 s.core.dst, r64 s.core.len⟩) = true
  swap
  · rw [Bool.not_eq_true] at h2
    exact .inr (.inr (.inl ⟨h0, h1, h2, chacha20Xor_overlap s h0 h1 h2⟩))
  by_cases h3 : (admitted s.params (r64 s.core.src) (r64 s.core.len) && admitted s.params (r64 s.core.dst) (r64 s.core.len)) = true
  swap
  · rw [Bool.not_eq_true] at h3
    exact .inr (.inr (.inr (.inl ⟨h0, h1, h2, h3, chacha20Xor_busError s h0 h1 h2 h3⟩)))
  exact .inr (.inr (.inr (.inr ⟨h0, h1, h2, h3, chacha20Xor_ok s h0 h1 h2 h3⟩)))

/-! ### POLY1305_UPDATE (R160) -/

theorem poly1305Update_noContext (s : State)
    (h0 : s.core.ctx.valid = false) :
    poly1305UpdateRule s = s.complete .noContext := by
  unfold poly1305UpdateRule
  exact if_pos (by simp [h0])

theorem poly1305Update_address (s : State)
    (h0 : s.core.ctx.valid = true)
    (h1 : inRange s.params (r64 s.core.src) (r64 s.core.len) = false) :
    poly1305UpdateRule s = s.complete .address := by
  unfold poly1305UpdateRule
  refine (if_neg (by simp [h0])).trans ?_
  exact if_pos (by simp [h1])

theorem poly1305Update_busError (s : State)
    (h0 : s.core.ctx.valid = true)
    (h1 : inRange s.params (r64 s.core.src) (r64 s.core.len) = true)
    (h2 : admitted s.params (r64 s.core.src) (r64 s.core.len) = false) :
    poly1305UpdateRule s = s.closeCtx.complete .busError := by
  unfold poly1305UpdateRule
  refine (if_neg (by simp [h0])).trans ?_
  refine (if_neg (by simp [h1])).trans ?_
  exact if_pos (by simp [h2])

theorem poly1305Update_ok (s : State)
    (h0 : s.core.ctx.valid = true)
    (h1 : inRange s.params (r64 s.core.src) (r64 s.core.len) = true)
    (h2 : admitted s.params (r64 s.core.src) (r64 s.core.len) = true) :
    poly1305UpdateRule s = (s.setCtx (absorb s.core.ctx (s.memRead (r64 s.core.src) (r64 s.core.len)))).complete .none := by
  unfold poly1305UpdateRule
  refine (if_neg (by simp [h0])).trans ?_
  refine (if_neg (by simp [h1])).trans ?_
  refine (if_neg (by simp [h2])).trans ?_
  rfl

/-- Everything POLY1305_UPDATE can do, in the order of its pseudocode. -/
theorem poly1305Update_cases (s : State) :
    (s.core.ctx.valid = false ∧
      poly1305UpdateRule s = s.complete .noContext) ∨
    (s.core.ctx.valid = true ∧
      inRange s.params (r64 s.core.src) (r64 s.core.len) = false ∧
      poly1305UpdateRule s = s.complete .address) ∨
    (s.core.ctx.valid = true ∧
      inRange s.params (r64 s.core.src) (r64 s.core.len) = true ∧
      admitted s.params (r64 s.core.src) (r64 s.core.len) = false ∧
      poly1305UpdateRule s = s.closeCtx.complete .busError) ∨
    (s.core.ctx.valid = true ∧
      inRange s.params (r64 s.core.src) (r64 s.core.len) = true ∧
      admitted s.params (r64 s.core.src) (r64 s.core.len) = true ∧
      poly1305UpdateRule s = (s.setCtx (absorb s.core.ctx (s.memRead (r64 s.core.src) (r64 s.core.len)))).complete .none) := by
  by_cases h0 : s.core.ctx.valid = true
  swap
  · rw [Bool.not_eq_true] at h0
    exact .inl ⟨h0, poly1305Update_noContext s h0⟩
  by_cases h1 : inRange s.params (r64 s.core.src) (r64 s.core.len) = true
  swap
  · rw [Bool.not_eq_true] at h1
    exact .inr (.inl ⟨h0, h1, poly1305Update_address s h0 h1⟩)
  by_cases h2 : admitted s.params (r64 s.core.src) (r64 s.core.len) = true
  swap
  · rw [Bool.not_eq_true] at h2
    exact .inr (.inr (.inl ⟨h0, h1, h2, poly1305Update_busError s h0 h1 h2⟩))
  exact .inr (.inr (.inr ⟨h0, h1, h2, poly1305Update_ok s h0 h1 h2⟩))

/-! ### POLY1305_FINISH (R161) -/

theorem poly1305Finish_noContext (s : State)
    (h0 : s.core.ctx.valid = false) :
    poly1305FinishRule s = s.complete .noContext := by
  unfold poly1305FinishRule
  exact if_pos (by simp [h0])

theorem poly1305Finish_ok (s : State)
    (h0 : s.core.ctx.valid = true) :
    poly1305FinishRule s = (s.setTag (finalOf s.core.ctx)).closeCtx.complete .none := by
  unfold poly1305FinishRule
  refine (if_neg (by simp [h0])).trans ?_
  rfl

/-- Everything POLY1305_FINISH can do, in the order of its pseudocode. -/
theorem poly1305Finish_cases (s : State) :
    (s.core.ctx.valid = false ∧
      poly1305FinishRule s = s.complete .noContext) ∨
    (s.core.ctx.valid = true ∧
      poly1305FinishRule s = (s.setTag (finalOf s.core.ctx)).closeCtx.complete .none) := by
  by_cases h0 : s.core.ctx.valid = true
  swap
  · rw [Bool.not_eq_true] at h0
    exact .inl ⟨h0, poly1305Finish_noContext s h0⟩
  exact .inr ⟨h0, poly1305Finish_ok s h0⟩

/-! ### POLY1305_AUTH (R162) -/

theorem poly1305Auth_address (s : State)
    (h0 : inRange s.params (r64 s.core.src) (r64 s.core.len) = false) :
    poly1305AuthRule s = s.complete .address := by
  unfold poly1305AuthRule
  exact if_pos (by simp [h0])

theorem poly1305Auth_busError (s : State)
    (h0 : inRange s.params (r64 s.core.src) (r64 s.core.len) = true)
    (h1 : admitted s.params (r64 s.core.src) (r64 s.core.len) = false) :
    poly1305AuthRule s = s.closeCtx.complete .busError := by
  unfold poly1305AuthRule
  refine (if_neg (by simp [h0])).trans ?_
  exact if_pos (by simp [h1])

theorem poly1305Auth_ok (s : State)
    (h0 : inRange s.params (r64 s.core.src) (r64 s.core.len) = true)
    (h1 : admitted s.params (r64 s.core.src) (r64 s.core.len) = true) :
    poly1305AuthRule s = (s.closeCtx.setTag (poly1305 (keyBytes s.core)
      (s.memRead (r64 s.core.src) (r64 s.core.len)))).complete .none := by
  unfold poly1305AuthRule
  refine (if_neg (by simp [h0])).trans ?_
  refine (if_neg (by simp [h1])).trans ?_
  rfl

/-- Everything POLY1305_AUTH can do, in the order of its pseudocode. -/
theorem poly1305Auth_cases (s : State) :
    (inRange s.params (r64 s.core.src) (r64 s.core.len) = false ∧
      poly1305AuthRule s = s.complete .address) ∨
    (inRange s.params (r64 s.core.src) (r64 s.core.len) = true ∧
      admitted s.params (r64 s.core.src) (r64 s.core.len) = false ∧
      poly1305AuthRule s = s.closeCtx.complete .busError) ∨
    (inRange s.params (r64 s.core.src) (r64 s.core.len) = true ∧
      admitted s.params (r64 s.core.src) (r64 s.core.len) = true ∧
      poly1305AuthRule s = (s.closeCtx.setTag (poly1305 (keyBytes s.core)
      (s.memRead (r64 s.core.src) (r64 s.core.len)))).complete .none) := by
  by_cases h0 : inRange s.params (r64 s.core.src) (r64 s.core.len) = true
  swap
  · rw [Bool.not_eq_true] at h0
    exact .inl ⟨h0, poly1305Auth_address s h0⟩
  by_cases h1 : admitted s.params (r64 s.core.src) (r64 s.core.len) = true
  swap
  · rw [Bool.not_eq_true] at h1
    exact .inr (.inl ⟨h0, h1, poly1305Auth_busError s h0 h1⟩)
  exact .inr (.inr ⟨h0, h1, poly1305Auth_ok s h0 h1⟩)

/-! ### AEAD_ENCRYPT (R194) -/

theorem aeadEncrypt_length (s : State)
    (h0 : aeadMaxLen < (r64 s.core.len)) :
    aeadEncryptRule s = s.complete .length := by
  unfold aeadEncryptRule
  exact if_pos h0

theorem aeadEncrypt_address (s : State)
    (h0 : (r64 s.core.len) ≤ aeadMaxLen)
    (h1 : (inRange s.params (r64 s.core.src) (r64 s.core.len) && inRange s.params (r64 s.core.dst) (r64 s.core.len + 16) && inRange s.params (r64 s.core.aad) (r64 s.core.aadlen)) = false) :
    aeadEncryptRule s = s.complete .address := by
  unfold aeadEncryptRule
  refine (if_neg (Nat.not_lt.mpr h0)).trans ?_
  exact if_pos (by simp [h1])

theorem aeadEncrypt_overlap (s : State)
    (h0 : (r64 s.core.len) ≤ aeadMaxLen)
    (h1 : (inRange s.params (r64 s.core.src) (r64 s.core.len) && inRange s.params (r64 s.core.dst) (r64 s.core.len + 16) && inRange s.params (r64 s.core.aad) (r64 s.core.aadlen)) = true)
    (h2 : ((r64 s.core.src == r64 s.core.dst || disjoint ⟨r64 s.core.src, r64 s.core.len⟩ ⟨r64 s.core.dst, r64 s.core.len + 16⟩) &&
      disjoint ⟨r64 s.core.aad, r64 s.core.aadlen⟩ ⟨r64 s.core.dst, r64 s.core.len + 16⟩) = false) :
    aeadEncryptRule s = s.complete .overlap := by
  unfold aeadEncryptRule
  refine (if_neg (Nat.not_lt.mpr h0)).trans ?_
  refine (if_neg (by simp [h1])).trans ?_
  exact if_pos (by simp [h2])

theorem aeadEncrypt_busError (s : State)
    (h0 : (r64 s.core.len) ≤ aeadMaxLen)
    (h1 : (inRange s.params (r64 s.core.src) (r64 s.core.len) && inRange s.params (r64 s.core.dst) (r64 s.core.len + 16) && inRange s.params (r64 s.core.aad) (r64 s.core.aadlen)) = true)
    (h2 : ((r64 s.core.src == r64 s.core.dst || disjoint ⟨r64 s.core.src, r64 s.core.len⟩ ⟨r64 s.core.dst, r64 s.core.len + 16⟩) &&
      disjoint ⟨r64 s.core.aad, r64 s.core.aadlen⟩ ⟨r64 s.core.dst, r64 s.core.len + 16⟩) = true)
    (h3 : (admitted s.params (r64 s.core.src) (r64 s.core.len) && admitted s.params (r64 s.core.aad) (r64 s.core.aadlen) && admitted s.params (r64 s.core.dst) (r64 s.core.len + 16)) = false) :
    aeadEncryptRule s = (s.closeCtx.scribble (r64 s.core.dst) (r64 s.core.len + 16)).complete .busError := by
  unfold aeadEncryptRule
  refine (if_neg (Nat.not_lt.mpr h0)).trans ?_
  refine (if_neg (by simp [h1])).trans ?_
  refine (if_neg (by simp [h2])).trans ?_
  exact if_pos (by simp [h3])

theorem aeadEncrypt_ok (s : State)
    (h0 : (r64 s.core.len) ≤ aeadMaxLen)
    (h1 : (inRange s.params (r64 s.core.src) (r64 s.core.len) && inRange s.params (r64 s.core.dst) (r64 s.core.len + 16) && inRange s.params (r64 s.core.aad) (r64 s.core.aadlen)) = true)
    (h2 : ((r64 s.core.src == r64 s.core.dst || disjoint ⟨r64 s.core.src, r64 s.core.len⟩ ⟨r64 s.core.dst, r64 s.core.len + 16⟩) &&
      disjoint ⟨r64 s.core.aad, r64 s.core.aadlen⟩ ⟨r64 s.core.dst, r64 s.core.len + 16⟩) = true)
    (h3 : (admitted s.params (r64 s.core.src) (r64 s.core.len) && admitted s.params (r64 s.core.aad) (r64 s.core.aadlen) && admitted s.params (r64 s.core.dst) (r64 s.core.len + 16)) = true) :
    aeadEncryptRule s = ((s.closeCtx.memWrite (r64 s.core.dst) ((xorStream (keyBytes s.core) (nonceBytes s.core) 1 (s.memRead (r64 s.core.src) (r64 s.core.len))) ++
      (aeadTag (keyBytes s.core) (nonceBytes s.core) (s.memRead (r64 s.core.aad) (r64 s.core.aadlen))
        (xorStream (keyBytes s.core) (nonceBytes s.core) 1 (s.memRead (r64 s.core.src) (r64 s.core.len)))))).setTag
      (aeadTag (keyBytes s.core) (nonceBytes s.core) (s.memRead (r64 s.core.aad) (r64 s.core.aadlen))
        (xorStream (keyBytes s.core) (nonceBytes s.core) 1 (s.memRead (r64 s.core.src) (r64 s.core.len))))).complete .none := by
  unfold aeadEncryptRule
  refine (if_neg (Nat.not_lt.mpr h0)).trans ?_
  refine (if_neg (by simp [h1])).trans ?_
  refine (if_neg (by simp [h2])).trans ?_
  refine (if_neg (by simp [h3])).trans ?_
  rfl

/-- Everything AEAD_ENCRYPT can do, in the order of its pseudocode. -/
theorem aeadEncrypt_cases (s : State) :
    (aeadMaxLen < (r64 s.core.len) ∧
      aeadEncryptRule s = s.complete .length) ∨
    ((r64 s.core.len) ≤ aeadMaxLen ∧
      (inRange s.params (r64 s.core.src) (r64 s.core.len) && inRange s.params (r64 s.core.dst) (r64 s.core.len + 16) && inRange s.params (r64 s.core.aad) (r64 s.core.aadlen)) = false ∧
      aeadEncryptRule s = s.complete .address) ∨
    ((r64 s.core.len) ≤ aeadMaxLen ∧
      (inRange s.params (r64 s.core.src) (r64 s.core.len) && inRange s.params (r64 s.core.dst) (r64 s.core.len + 16) && inRange s.params (r64 s.core.aad) (r64 s.core.aadlen)) = true ∧
      ((r64 s.core.src == r64 s.core.dst || disjoint ⟨r64 s.core.src, r64 s.core.len⟩ ⟨r64 s.core.dst, r64 s.core.len + 16⟩) &&
      disjoint ⟨r64 s.core.aad, r64 s.core.aadlen⟩ ⟨r64 s.core.dst, r64 s.core.len + 16⟩) = false ∧
      aeadEncryptRule s = s.complete .overlap) ∨
    ((r64 s.core.len) ≤ aeadMaxLen ∧
      (inRange s.params (r64 s.core.src) (r64 s.core.len) && inRange s.params (r64 s.core.dst) (r64 s.core.len + 16) && inRange s.params (r64 s.core.aad) (r64 s.core.aadlen)) = true ∧
      ((r64 s.core.src == r64 s.core.dst || disjoint ⟨r64 s.core.src, r64 s.core.len⟩ ⟨r64 s.core.dst, r64 s.core.len + 16⟩) &&
      disjoint ⟨r64 s.core.aad, r64 s.core.aadlen⟩ ⟨r64 s.core.dst, r64 s.core.len + 16⟩) = true ∧
      (admitted s.params (r64 s.core.src) (r64 s.core.len) && admitted s.params (r64 s.core.aad) (r64 s.core.aadlen) && admitted s.params (r64 s.core.dst) (r64 s.core.len + 16)) = false ∧
      aeadEncryptRule s = (s.closeCtx.scribble (r64 s.core.dst) (r64 s.core.len + 16)).complete .busError) ∨
    ((r64 s.core.len) ≤ aeadMaxLen ∧
      (inRange s.params (r64 s.core.src) (r64 s.core.len) && inRange s.params (r64 s.core.dst) (r64 s.core.len + 16) && inRange s.params (r64 s.core.aad) (r64 s.core.aadlen)) = true ∧
      ((r64 s.core.src == r64 s.core.dst || disjoint ⟨r64 s.core.src, r64 s.core.len⟩ ⟨r64 s.core.dst, r64 s.core.len + 16⟩) &&
      disjoint ⟨r64 s.core.aad, r64 s.core.aadlen⟩ ⟨r64 s.core.dst, r64 s.core.len + 16⟩) = true ∧
      (admitted s.params (r64 s.core.src) (r64 s.core.len) && admitted s.params (r64 s.core.aad) (r64 s.core.aadlen) && admitted s.params (r64 s.core.dst) (r64 s.core.len + 16)) = true ∧
      aeadEncryptRule s = ((s.closeCtx.memWrite (r64 s.core.dst) ((xorStream (keyBytes s.core) (nonceBytes s.core) 1 (s.memRead (r64 s.core.src) (r64 s.core.len))) ++
      (aeadTag (keyBytes s.core) (nonceBytes s.core) (s.memRead (r64 s.core.aad) (r64 s.core.aadlen))
        (xorStream (keyBytes s.core) (nonceBytes s.core) 1 (s.memRead (r64 s.core.src) (r64 s.core.len)))))).setTag
      (aeadTag (keyBytes s.core) (nonceBytes s.core) (s.memRead (r64 s.core.aad) (r64 s.core.aadlen))
        (xorStream (keyBytes s.core) (nonceBytes s.core) 1 (s.memRead (r64 s.core.src) (r64 s.core.len))))).complete .none) := by
  by_cases h0 : (r64 s.core.len) ≤ aeadMaxLen
  swap
  · rw [not_le] at h0
    exact .inl ⟨h0, aeadEncrypt_length s h0⟩
  by_cases h1 : (inRange s.params (r64 s.core.src) (r64 s.core.len) && inRange s.params (r64 s.core.dst) (r64 s.core.len + 16) && inRange s.params (r64 s.core.aad) (r64 s.core.aadlen)) = true
  swap
  · rw [Bool.not_eq_true] at h1
    exact .inr (.inl ⟨h0, h1, aeadEncrypt_address s h0 h1⟩)
  by_cases h2 : ((r64 s.core.src == r64 s.core.dst || disjoint ⟨r64 s.core.src, r64 s.core.len⟩ ⟨r64 s.core.dst, r64 s.core.len + 16⟩) &&
      disjoint ⟨r64 s.core.aad, r64 s.core.aadlen⟩ ⟨r64 s.core.dst, r64 s.core.len + 16⟩) = true
  swap
  · rw [Bool.not_eq_true] at h2
    exact .inr (.inr (.inl ⟨h0, h1, h2, aeadEncrypt_overlap s h0 h1 h2⟩))
  by_cases h3 : (admitted s.params (r64 s.core.src) (r64 s.core.len) && admitted s.params (r64 s.core.aad) (r64 s.core.aadlen) && admitted s.params (r64 s.core.dst) (r64 s.core.len + 16)) = true
  swap
  · rw [Bool.not_eq_true] at h3
    exact .inr (.inr (.inr (.inl ⟨h0, h1, h2, h3, aeadEncrypt_busError s h0 h1 h2 h3⟩)))
  exact .inr (.inr (.inr (.inr ⟨h0, h1, h2, h3, aeadEncrypt_ok s h0 h1 h2 h3⟩)))

/-! ### AEAD_DECRYPT (R196) -/

theorem aeadDecrypt_length (s : State)
    (h0 : aeadMaxLen < (r64 s.core.len)) :
    aeadDecryptRule s = s.complete .length := by
  unfold aeadDecryptRule
  exact if_pos h0

theorem aeadDecrypt_address (s : State)
    (h0 : (r64 s.core.len) ≤ aeadMaxLen)
    (h1 : (inRange s.params (r64 s.core.src) (r64 s.core.len) && inRange s.params (r64 s.core.dst) (r64 s.core.len) && inRange s.params (r64 s.core.aad) (r64 s.core.aadlen)) = false) :
    aeadDecryptRule s = s.complete .address := by
  unfold aeadDecryptRule
  refine (if_neg (Nat.not_lt.mpr h0)).trans ?_
  exact if_pos (by simp [h1])

theorem aeadDecrypt_overlap (s : State)
    (h0 : (r64 s.core.len) ≤ aeadMaxLen)
    (h1 : (inRange s.params (r64 s.core.src) (r64 s.core.len) && inRange s.params (r64 s.core.dst) (r64 s.core.len) && inRange s.params (r64 s.core.aad) (r64 s.core.aadlen)) = true)
    (h2 : ((r64 s.core.src == r64 s.core.dst || disjoint ⟨r64 s.core.src, r64 s.core.len⟩ ⟨r64 s.core.dst, r64 s.core.len⟩) &&
      disjoint ⟨r64 s.core.aad, r64 s.core.aadlen⟩ ⟨r64 s.core.dst, r64 s.core.len⟩) = false) :
    aeadDecryptRule s = s.complete .overlap := by
  unfold aeadDecryptRule
  refine (if_neg (Nat.not_lt.mpr h0)).trans ?_
  refine (if_neg (by simp [h1])).trans ?_
  exact if_pos (by simp [h2])

theorem aeadDecrypt_busErrorRead (s : State)
    (h0 : (r64 s.core.len) ≤ aeadMaxLen)
    (h1 : (inRange s.params (r64 s.core.src) (r64 s.core.len) && inRange s.params (r64 s.core.dst) (r64 s.core.len) && inRange s.params (r64 s.core.aad) (r64 s.core.aadlen)) = true)
    (h2 : ((r64 s.core.src == r64 s.core.dst || disjoint ⟨r64 s.core.src, r64 s.core.len⟩ ⟨r64 s.core.dst, r64 s.core.len⟩) &&
      disjoint ⟨r64 s.core.aad, r64 s.core.aadlen⟩ ⟨r64 s.core.dst, r64 s.core.len⟩) = true)
    (h3 : (admitted s.params (r64 s.core.src) (r64 s.core.len) && admitted s.params (r64 s.core.aad) (r64 s.core.aadlen)) = false) :
    aeadDecryptRule s = s.closeCtx.complete .busError := by
  unfold aeadDecryptRule
  refine (if_neg (Nat.not_lt.mpr h0)).trans ?_
  refine (if_neg (by simp [h1])).trans ?_
  refine (if_neg (by simp [h2])).trans ?_
  exact if_pos (by simp [h3])

theorem aeadDecrypt_authFail (s : State)
    (h0 : (r64 s.core.len) ≤ aeadMaxLen)
    (h1 : (inRange s.params (r64 s.core.src) (r64 s.core.len) && inRange s.params (r64 s.core.dst) (r64 s.core.len) && inRange s.params (r64 s.core.aad) (r64 s.core.aadlen)) = true)
    (h2 : ((r64 s.core.src == r64 s.core.dst || disjoint ⟨r64 s.core.src, r64 s.core.len⟩ ⟨r64 s.core.dst, r64 s.core.len⟩) &&
      disjoint ⟨r64 s.core.aad, r64 s.core.aadlen⟩ ⟨r64 s.core.dst, r64 s.core.len⟩) = true)
    (h3 : (admitted s.params (r64 s.core.src) (r64 s.core.len) && admitted s.params (r64 s.core.aad) (r64 s.core.aadlen)) = true)
    (h4 : ctEqual16 (aeadTag (keyBytes s.core) (nonceBytes s.core) (s.memRead (r64 s.core.aad) (r64 s.core.aadlen)) (s.memRead (r64 s.core.src) (r64 s.core.len))) (tagBytes s.core) = false) :
    aeadDecryptRule s = s.closeCtx.complete .authFail := by
  unfold aeadDecryptRule
  refine (if_neg (Nat.not_lt.mpr h0)).trans ?_
  refine (if_neg (by simp [h1])).trans ?_
  refine (if_neg (by simp [h2])).trans ?_
  refine (if_neg (by simp [h3])).trans ?_
  exact if_pos (by simp [h4])

theorem aeadDecrypt_busErrorWrite (s : State)
    (h0 : (r64 s.core.len) ≤ aeadMaxLen)
    (h1 : (inRange s.params (r64 s.core.src) (r64 s.core.len) && inRange s.params (r64 s.core.dst) (r64 s.core.len) && inRange s.params (r64 s.core.aad) (r64 s.core.aadlen)) = true)
    (h2 : ((r64 s.core.src == r64 s.core.dst || disjoint ⟨r64 s.core.src, r64 s.core.len⟩ ⟨r64 s.core.dst, r64 s.core.len⟩) &&
      disjoint ⟨r64 s.core.aad, r64 s.core.aadlen⟩ ⟨r64 s.core.dst, r64 s.core.len⟩) = true)
    (h3 : (admitted s.params (r64 s.core.src) (r64 s.core.len) && admitted s.params (r64 s.core.aad) (r64 s.core.aadlen)) = true)
    (h4 : ctEqual16 (aeadTag (keyBytes s.core) (nonceBytes s.core) (s.memRead (r64 s.core.aad) (r64 s.core.aadlen)) (s.memRead (r64 s.core.src) (r64 s.core.len))) (tagBytes s.core) = true)
    (h5 : admitted s.params (r64 s.core.dst) (r64 s.core.len) = false) :
    aeadDecryptRule s = (s.closeCtx.scribble (r64 s.core.dst) (r64 s.core.len)).complete .busError := by
  unfold aeadDecryptRule
  refine (if_neg (Nat.not_lt.mpr h0)).trans ?_
  refine (if_neg (by simp [h1])).trans ?_
  refine (if_neg (by simp [h2])).trans ?_
  refine (if_neg (by simp [h3])).trans ?_
  refine (if_neg (by simp [h4])).trans ?_
  exact if_pos (by simp [h5])

theorem aeadDecrypt_ok (s : State)
    (h0 : (r64 s.core.len) ≤ aeadMaxLen)
    (h1 : (inRange s.params (r64 s.core.src) (r64 s.core.len) && inRange s.params (r64 s.core.dst) (r64 s.core.len) && inRange s.params (r64 s.core.aad) (r64 s.core.aadlen)) = true)
    (h2 : ((r64 s.core.src == r64 s.core.dst || disjoint ⟨r64 s.core.src, r64 s.core.len⟩ ⟨r64 s.core.dst, r64 s.core.len⟩) &&
      disjoint ⟨r64 s.core.aad, r64 s.core.aadlen⟩ ⟨r64 s.core.dst, r64 s.core.len⟩) = true)
    (h3 : (admitted s.params (r64 s.core.src) (r64 s.core.len) && admitted s.params (r64 s.core.aad) (r64 s.core.aadlen)) = true)
    (h4 : ctEqual16 (aeadTag (keyBytes s.core) (nonceBytes s.core) (s.memRead (r64 s.core.aad) (r64 s.core.aadlen)) (s.memRead (r64 s.core.src) (r64 s.core.len))) (tagBytes s.core) = true)
    (h5 : admitted s.params (r64 s.core.dst) (r64 s.core.len) = true) :
    aeadDecryptRule s = (s.closeCtx.memWrite (r64 s.core.dst) (xorStream (keyBytes s.core) (nonceBytes s.core) 1 (s.memRead (r64 s.core.src) (r64 s.core.len)))).complete .none := by
  unfold aeadDecryptRule
  refine (if_neg (Nat.not_lt.mpr h0)).trans ?_
  refine (if_neg (by simp [h1])).trans ?_
  refine (if_neg (by simp [h2])).trans ?_
  refine (if_neg (by simp [h3])).trans ?_
  refine (if_neg (by simp [h4])).trans ?_
  refine (if_neg (by simp [h5])).trans ?_
  rfl

/-- Everything AEAD_DECRYPT can do, in the order of its pseudocode. -/
theorem aeadDecrypt_cases (s : State) :
    (aeadMaxLen < (r64 s.core.len) ∧
      aeadDecryptRule s = s.complete .length) ∨
    ((r64 s.core.len) ≤ aeadMaxLen ∧
      (inRange s.params (r64 s.core.src) (r64 s.core.len) && inRange s.params (r64 s.core.dst) (r64 s.core.len) && inRange s.params (r64 s.core.aad) (r64 s.core.aadlen)) = false ∧
      aeadDecryptRule s = s.complete .address) ∨
    ((r64 s.core.len) ≤ aeadMaxLen ∧
      (inRange s.params (r64 s.core.src) (r64 s.core.len) && inRange s.params (r64 s.core.dst) (r64 s.core.len) && inRange s.params (r64 s.core.aad) (r64 s.core.aadlen)) = true ∧
      ((r64 s.core.src == r64 s.core.dst || disjoint ⟨r64 s.core.src, r64 s.core.len⟩ ⟨r64 s.core.dst, r64 s.core.len⟩) &&
      disjoint ⟨r64 s.core.aad, r64 s.core.aadlen⟩ ⟨r64 s.core.dst, r64 s.core.len⟩) = false ∧
      aeadDecryptRule s = s.complete .overlap) ∨
    ((r64 s.core.len) ≤ aeadMaxLen ∧
      (inRange s.params (r64 s.core.src) (r64 s.core.len) && inRange s.params (r64 s.core.dst) (r64 s.core.len) && inRange s.params (r64 s.core.aad) (r64 s.core.aadlen)) = true ∧
      ((r64 s.core.src == r64 s.core.dst || disjoint ⟨r64 s.core.src, r64 s.core.len⟩ ⟨r64 s.core.dst, r64 s.core.len⟩) &&
      disjoint ⟨r64 s.core.aad, r64 s.core.aadlen⟩ ⟨r64 s.core.dst, r64 s.core.len⟩) = true ∧
      (admitted s.params (r64 s.core.src) (r64 s.core.len) && admitted s.params (r64 s.core.aad) (r64 s.core.aadlen)) = false ∧
      aeadDecryptRule s = s.closeCtx.complete .busError) ∨
    ((r64 s.core.len) ≤ aeadMaxLen ∧
      (inRange s.params (r64 s.core.src) (r64 s.core.len) && inRange s.params (r64 s.core.dst) (r64 s.core.len) && inRange s.params (r64 s.core.aad) (r64 s.core.aadlen)) = true ∧
      ((r64 s.core.src == r64 s.core.dst || disjoint ⟨r64 s.core.src, r64 s.core.len⟩ ⟨r64 s.core.dst, r64 s.core.len⟩) &&
      disjoint ⟨r64 s.core.aad, r64 s.core.aadlen⟩ ⟨r64 s.core.dst, r64 s.core.len⟩) = true ∧
      (admitted s.params (r64 s.core.src) (r64 s.core.len) && admitted s.params (r64 s.core.aad) (r64 s.core.aadlen)) = true ∧
      ctEqual16 (aeadTag (keyBytes s.core) (nonceBytes s.core) (s.memRead (r64 s.core.aad) (r64 s.core.aadlen)) (s.memRead (r64 s.core.src) (r64 s.core.len))) (tagBytes s.core) = false ∧
      aeadDecryptRule s = s.closeCtx.complete .authFail) ∨
    ((r64 s.core.len) ≤ aeadMaxLen ∧
      (inRange s.params (r64 s.core.src) (r64 s.core.len) && inRange s.params (r64 s.core.dst) (r64 s.core.len) && inRange s.params (r64 s.core.aad) (r64 s.core.aadlen)) = true ∧
      ((r64 s.core.src == r64 s.core.dst || disjoint ⟨r64 s.core.src, r64 s.core.len⟩ ⟨r64 s.core.dst, r64 s.core.len⟩) &&
      disjoint ⟨r64 s.core.aad, r64 s.core.aadlen⟩ ⟨r64 s.core.dst, r64 s.core.len⟩) = true ∧
      (admitted s.params (r64 s.core.src) (r64 s.core.len) && admitted s.params (r64 s.core.aad) (r64 s.core.aadlen)) = true ∧
      ctEqual16 (aeadTag (keyBytes s.core) (nonceBytes s.core) (s.memRead (r64 s.core.aad) (r64 s.core.aadlen)) (s.memRead (r64 s.core.src) (r64 s.core.len))) (tagBytes s.core) = true ∧
      admitted s.params (r64 s.core.dst) (r64 s.core.len) = false ∧
      aeadDecryptRule s = (s.closeCtx.scribble (r64 s.core.dst) (r64 s.core.len)).complete .busError) ∨
    ((r64 s.core.len) ≤ aeadMaxLen ∧
      (inRange s.params (r64 s.core.src) (r64 s.core.len) && inRange s.params (r64 s.core.dst) (r64 s.core.len) && inRange s.params (r64 s.core.aad) (r64 s.core.aadlen)) = true ∧
      ((r64 s.core.src == r64 s.core.dst || disjoint ⟨r64 s.core.src, r64 s.core.len⟩ ⟨r64 s.core.dst, r64 s.core.len⟩) &&
      disjoint ⟨r64 s.core.aad, r64 s.core.aadlen⟩ ⟨r64 s.core.dst, r64 s.core.len⟩) = true ∧
      (admitted s.params (r64 s.core.src) (r64 s.core.len) && admitted s.params (r64 s.core.aad) (r64 s.core.aadlen)) = true ∧
      ctEqual16 (aeadTag (keyBytes s.core) (nonceBytes s.core) (s.memRead (r64 s.core.aad) (r64 s.core.aadlen)) (s.memRead (r64 s.core.src) (r64 s.core.len))) (tagBytes s.core) = true ∧
      admitted s.params (r64 s.core.dst) (r64 s.core.len) = true ∧
      aeadDecryptRule s = (s.closeCtx.memWrite (r64 s.core.dst) (xorStream (keyBytes s.core) (nonceBytes s.core) 1 (s.memRead (r64 s.core.src) (r64 s.core.len)))).complete .none) := by
  by_cases h0 : (r64 s.core.len) ≤ aeadMaxLen
  swap
  · rw [not_le] at h0
    exact .inl ⟨h0, aeadDecrypt_length s h0⟩
  by_cases h1 : (inRange s.params (r64 s.core.src) (r64 s.core.len) && inRange s.params (r64 s.core.dst) (r64 s.core.len) && inRange s.params (r64 s.core.aad) (r64 s.core.aadlen)) = true
  swap
  · rw [Bool.not_eq_true] at h1
    exact .inr (.inl ⟨h0, h1, aeadDecrypt_address s h0 h1⟩)
  by_cases h2 : ((r64 s.core.src == r64 s.core.dst || disjoint ⟨r64 s.core.src, r64 s.core.len⟩ ⟨r64 s.core.dst, r64 s.core.len⟩) &&
      disjoint ⟨r64 s.core.aad, r64 s.core.aadlen⟩ ⟨r64 s.core.dst, r64 s.core.len⟩) = true
  swap
  · rw [Bool.not_eq_true] at h2
    exact .inr (.inr (.inl ⟨h0, h1, h2, aeadDecrypt_overlap s h0 h1 h2⟩))
  by_cases h3 : (admitted s.params (r64 s.core.src) (r64 s.core.len) && admitted s.params (r64 s.core.aad) (r64 s.core.aadlen)) = true
  swap
  · rw [Bool.not_eq_true] at h3
    exact .inr (.inr (.inr (.inl ⟨h0, h1, h2, h3, aeadDecrypt_busErrorRead s h0 h1 h2 h3⟩)))
  by_cases h4 : ctEqual16 (aeadTag (keyBytes s.core) (nonceBytes s.core) (s.memRead (r64 s.core.aad) (r64 s.core.aadlen)) (s.memRead (r64 s.core.src) (r64 s.core.len))) (tagBytes s.core) = true
  swap
  · rw [Bool.not_eq_true] at h4
    exact .inr (.inr (.inr (.inr (.inl ⟨h0, h1, h2, h3, h4, aeadDecrypt_authFail s h0 h1 h2 h3 h4⟩))))
  by_cases h5 : admitted s.params (r64 s.core.dst) (r64 s.core.len) = true
  swap
  · rw [Bool.not_eq_true] at h5
    exact .inr (.inr (.inr (.inr (.inr (.inl ⟨h0, h1, h2, h3, h4, h5, aeadDecrypt_busErrorWrite s h0 h1 h2 h3 h4 h5⟩)))))
  exact .inr (.inr (.inr (.inr (.inr (.inr ⟨h0, h1, h2, h3, h4, h5, aeadDecrypt_ok s h0 h1 h2 h3 h4 h5⟩)))))

/-! ### Each arm is its command's rule -/

theorem exec_chacha20Block (s : State) : exec .chacha20Block s = .next (chacha20BlockRule s) := rfl
theorem exec_chacha20Xor (s : State) : exec .chacha20Xor s = .next (chacha20XorRule s) := rfl
theorem exec_poly1305Init (s : State) : exec .poly1305Init s = .next (poly1305InitRule s) := rfl
theorem exec_poly1305Update (s : State) : exec .poly1305Update s = .next (poly1305UpdateRule s) := rfl
theorem exec_poly1305Finish (s : State) : exec .poly1305Finish s = .next (poly1305FinishRule s) := rfl
theorem exec_poly1305Auth (s : State) : exec .poly1305Auth s = .next (poly1305AuthRule s) := rfl
theorem exec_aeadEncrypt (s : State) : exec .aeadEncrypt s = .next (aeadEncryptRule s) := rfl
theorem exec_aeadDecrypt (s : State) : exec .aeadDecrypt s = .next (aeadDecryptRule s) := rfl
theorem exec_zeroize (s : State) : exec .zeroize s = .next (zeroizeRule s) := rfl

end Sys2Proof.Machine
end

