-- ==== Sys2Proof/Laws/Exec.lean ====
section
/-! SUPPORT. What all commands keep: the
platform's parameters, the other instances, the host and the turns (43_control.md R232; 60_exceptions.md R277). -/

namespace Sys2Proof.Machine

/-- What no command changes: everything of the machine but the instance in focus, data memory and the draw counter, and
of that instance everything but the registers 30_encoding.md R93 lists as written and STATUS. -/
structure KeptByCommands (s t : State) : Prop where
  params : t.params = s.params
  before : t.before = s.before
  after  : t.after = s.after
  host   : t.host = s.host
  turns  : t.turns = s.turns
  base   : t.core.base = s.core.base
  held   : t.core.held = s.core.held
  irqEn  : t.core.irqEn = s.core.irqEn
  cmd    : t.core.cmd = s.core.cmd
  overrun : t.core.overrun = s.core.overrun
  nonce  : t.core.nonce = s.core.nonce
  src    : t.core.src = s.core.src
  dst    : t.core.dst = s.core.dst
  len    : t.core.len = s.core.len
  aad    : t.core.aad = s.core.aad
  aadlen : t.core.aadlen = s.core.aadlen
  claimReads : t.core.claimReads = s.core.claimReads
  claimWrites : t.core.claimWrites = s.core.claimWrites

theorem kept_refl (s : State) : KeptByCommands s s := by constructor <;> rfl

theorem kept_complete {s t : State} (e : ErrCode) (h : KeptByCommands s t) : KeptByCommands s (t.complete e) :=
  ⟨h.params, h.before, h.after, h.host, h.turns, h.base, h.held, h.irqEn, h.cmd, h.overrun, h.nonce, h.src, h.dst,
    h.len, h.aad, h.aadlen, h.claimReads, h.claimWrites⟩

theorem kept_closeCtx {s t : State} (h : KeptByCommands s t) : KeptByCommands s t.closeCtx :=
  ⟨h.params, h.before, h.after, h.host, h.turns, h.base, h.held, h.irqEn, h.cmd, h.overrun, h.nonce, h.src, h.dst,
    h.len, h.aad, h.aadlen, h.claimReads, h.claimWrites⟩

theorem kept_setTag {s t : State} (b : List Byte) (h : KeptByCommands s t) : KeptByCommands s (t.setTag b) :=
  ⟨h.params, h.before, h.after, h.host, h.turns, h.base, h.held, h.irqEn, h.cmd, h.overrun, h.nonce, h.src, h.dst,
    h.len, h.aad, h.aadlen, h.claimReads, h.claimWrites⟩

theorem kept_setCtx {s t : State} (x : PolyCtx) (h : KeptByCommands s t) : KeptByCommands s (t.setCtx x) :=
  ⟨h.params, h.before, h.after, h.host, h.turns, h.base, h.held, h.irqEn, h.cmd, h.overrun, h.nonce, h.src, h.dst,
    h.len, h.aad, h.aadlen, h.claimReads, h.claimWrites⟩

theorem kept_setCtr33 {s t : State} (n : Nat) (h : KeptByCommands s t) : KeptByCommands s (t.setCtr33 n) :=
  ⟨h.params, h.before, h.after, h.host, h.turns, h.base, h.held, h.irqEn, h.cmd, h.overrun, h.nonce, h.src, h.dst,
    h.len, h.aad, h.aadlen, h.claimReads, h.claimWrites⟩

theorem kept_memWrite {s t : State} (a : Nat) (v : List Byte) (h : KeptByCommands s t) :
    KeptByCommands s (t.memWrite a v) :=
  ⟨h.params, h.before, h.after, h.host, h.turns, h.base, h.held, h.irqEn, h.cmd, h.overrun, h.nonce, h.src, h.dst,
    h.len, h.aad, h.aadlen, h.claimReads, h.claimWrites⟩

theorem kept_scribble {s t : State} (a n : Nat) (h : KeptByCommands s t) : KeptByCommands s (t.scribble a n) :=
  ⟨h.params, h.before, h.after, h.host, h.turns, h.base, h.held, h.irqEn, h.cmd, h.overrun, h.nonce, h.src, h.dst,
    h.len, h.aad, h.aadlen, h.claimReads, h.claimWrites⟩

theorem chacha20BlockRule_kept (s : State) : KeptByCommands s (chacha20BlockRule s) := by
  rcases chacha20Block_cases s with
    ⟨-, h⟩ | ⟨-, -, h⟩ | ⟨-, -, -, h⟩ | ⟨-, -, -, h⟩ <;> rw [h]
  · exact kept_complete _ (kept_refl s)
  · exact kept_complete _ (kept_refl s)
  · exact kept_complete _ (kept_scribble _ _ (kept_refl s))
  · exact kept_complete _ (kept_memWrite _ _ (kept_refl s))

theorem chacha20XorRule_kept (s : State) : KeptByCommands s (chacha20XorRule s) := by
  rcases chacha20Xor_cases s with
    ⟨-, h⟩ | ⟨-, -, h⟩ | ⟨-, -, -, h⟩ | ⟨-, -, -, -, h⟩ | ⟨-, -, -, -, h⟩ <;> rw [h]
  · exact kept_complete _ (kept_refl s)
  · exact kept_complete _ (kept_refl s)
  · exact kept_complete _ (kept_refl s)
  · exact kept_complete _ (kept_scribble _ _ (kept_refl s))
  · exact kept_complete _ (kept_setCtr33 _ (kept_memWrite _ _ (kept_refl s)))

theorem poly1305InitRule_kept (s : State) : KeptByCommands s (poly1305InitRule s) :=
  kept_complete _ (kept_setCtx _ (kept_closeCtx (kept_refl s)))

theorem poly1305UpdateRule_kept (s : State) : KeptByCommands s (poly1305UpdateRule s) := by
  rcases poly1305Update_cases s with
    ⟨-, h⟩ | ⟨-, -, h⟩ | ⟨-, -, -, h⟩ | ⟨-, -, -, h⟩ <;> rw [h]
  · exact kept_complete _ (kept_refl s)
  · exact kept_complete _ (kept_refl s)
  · exact kept_complete _ (kept_closeCtx (kept_refl s))
  · exact kept_complete _ (kept_setCtx _ (kept_refl s))

theorem poly1305FinishRule_kept (s : State) : KeptByCommands s (poly1305FinishRule s) := by
  rcases poly1305Finish_cases s with
    ⟨-, h⟩ | ⟨-, h⟩ <;> rw [h]
  · exact kept_complete _ (kept_refl s)
  · exact kept_complete _ (kept_closeCtx (kept_setTag _ (kept_refl s)))

theorem poly1305AuthRule_kept (s : State) : KeptByCommands s (poly1305AuthRule s) := by
  rcases poly1305Auth_cases s with
    ⟨-, h⟩ | ⟨-, -, h⟩ | ⟨-, -, h⟩ <;> rw [h]
  · exact kept_complete _ (kept_refl s)
  · exact kept_complete _ (kept_closeCtx (kept_refl s))
  · exact kept_complete _ (kept_setTag _ (kept_closeCtx (kept_refl s)))

theorem aeadEncryptRule_kept (s : State) : KeptByCommands s (aeadEncryptRule s) := by
  rcases aeadEncrypt_cases s with
    ⟨-, h⟩ | ⟨-, -, h⟩ | ⟨-, -, -, h⟩ | ⟨-, -, -, -, h⟩ | ⟨-, -, -, -, h⟩ <;> rw [h]
  · exact kept_complete _ (kept_refl s)
  · exact kept_complete _ (kept_refl s)
  · exact kept_complete _ (kept_refl s)
  · exact kept_complete _ (kept_scribble _ _ (kept_closeCtx (kept_refl s)))
  · exact kept_complete _ (kept_setTag _ (kept_memWrite _ _ (kept_closeCtx (kept_refl s))))

theorem aeadDecryptRule_kept (s : State) : KeptByCommands s (aeadDecryptRule s) := by
  rcases aeadDecrypt_cases s with
    ⟨-, h⟩ | ⟨-, -, h⟩ | ⟨-, -, -, h⟩ | ⟨-, -, -, -, h⟩ | ⟨-, -, -, -, -, h⟩ | ⟨-, -, -, -, -, -, h⟩ | ⟨-, -, -, -, -, -, h⟩ <;> rw [h]
  · exact kept_complete _ (kept_refl s)
  · exact kept_complete _ (kept_refl s)
  · exact kept_complete _ (kept_refl s)
  · exact kept_complete _ (kept_closeCtx (kept_refl s))
  · exact kept_complete _ (kept_closeCtx (kept_refl s))
  · exact kept_complete _ (kept_scribble _ _ (kept_closeCtx (kept_refl s)))
  · exact kept_complete _ (kept_memWrite _ _ (kept_closeCtx (kept_refl s)))

theorem zeroizeRule_kept (s : State) : KeptByCommands s (zeroizeRule s) :=
  kept_complete _ (kept_closeCtx ⟨rfl, rfl, rfl, rfl, rfl, rfl, rfl, rfl, rfl, rfl, rfl, rfl, rfl, rfl, rfl, rfl, rfl, rfl⟩)

/-- Every command goes on to a next state and keeps what commands keep (43_control.md R232). -/
theorem exec_next (i : Instr) (s : State) : ∃ t, exec i s = .next t ∧ KeptByCommands s t := by
  cases i
  · exact ⟨_, rfl, chacha20BlockRule_kept s⟩
  · exact ⟨_, rfl, chacha20XorRule_kept s⟩
  · exact ⟨_, rfl, poly1305InitRule_kept s⟩
  · exact ⟨_, rfl, poly1305UpdateRule_kept s⟩
  · exact ⟨_, rfl, poly1305FinishRule_kept s⟩
  · exact ⟨_, rfl, poly1305AuthRule_kept s⟩
  · exact ⟨_, rfl, aeadEncryptRule_kept s⟩
  · exact ⟨_, rfl, aeadDecryptRule_kept s⟩
  · exact ⟨_, rfl, zeroizeRule_kept s⟩

theorem exec_kept {i : Instr} {s t : State} (h : exec i s = .next t) : KeptByCommands s t := by
  obtain ⟨u, hu, hk⟩ := exec_next i s
  rw [hu] at h
  exact Host.Outcome.next.inj h ▸ hk

/-- An operand's ranges depend on the address and length registers only (20_memory.md R61). -/
theorem readRanges_kept {i j : Instr} {s t : State} (h : exec j s = .next t) :
    readRanges i t.core = readRanges i s.core := by
  have k := exec_kept h
  cases i <;> simp [readRanges, srcRange, aadRange, k.src, k.len, k.aad, k.aadlen]

theorem writeRanges_kept {i j : Instr} {s t : State} (h : exec j s = .next t) :
    writeRanges i t.core = writeRanges i s.core := by
  have k := exec_kept h
  cases i <;> simp [writeRanges, dstRange, k.dst, k.len]

/-- Everything a command can do, as a few shapes: an error found by its checks; an error after the context was closed; a
bus error that scribbles the write range; or one of the results. The write range is said by its length, so that no proof
meets a numeral there. -/
theorem exec_shapes {i : Instr} {s t : State} (h : exec i s = .next t) :
    (∃ e, e ∈ [ErrCode.counterRange, .length, .address, .overlap, .noContext] ∧ t = s.complete e) ∨
    (i ∈ [Instr.poly1305Update, .poly1305Auth, .aeadDecrypt] ∧ t = s.closeCtx.complete .busError) ∨
    (i = .aeadDecrypt ∧ t = s.closeCtx.complete .authFail) ∨
    (∃ n, i ∈ [Instr.chacha20Block, .chacha20Xor] ∧ writeRanges i s.core = [dstRange s.core n] ∧
      t = (s.scribble (r64 s.core.dst) n).complete .busError) ∨
    (∃ n, i ∈ [Instr.aeadEncrypt, .aeadDecrypt] ∧ writeRanges i s.core = [dstRange s.core n] ∧
      t = (s.closeCtx.scribble (r64 s.core.dst) n).complete .busError) ∨
    (∃ v, i = .chacha20Block ∧ writeRanges i s.core = [dstRange s.core v.length] ∧
      admitted s.params (r64 s.core.dst) v.length = true ∧
      t = (s.memWrite (r64 s.core.dst) v).complete .none) ∨
    (∃ v c, i = .chacha20Xor ∧ writeRanges i s.core = [dstRange s.core v.length] ∧
      admitted s.params (r64 s.core.dst) v.length = true ∧ c ≤ 2 ^ 32 ∧
      t = ((s.memWrite (r64 s.core.dst) v).setCtr33 c).complete .none) ∨
    (i = .poly1305Init ∧ t = (s.setCtx (openCtx (keyBytes s.core))).complete .none) ∨
    (∃ d, i = .poly1305Update ∧ s.core.ctx.valid = true ∧ t = (s.setCtx (absorb s.core.ctx d)).complete .none) ∨
    (∃ d, i ∈ [Instr.poly1305Finish, .poly1305Auth] ∧ t = (s.closeCtx.setTag d).complete .none) ∨
    (∃ v d, i = .aeadEncrypt ∧ writeRanges i s.core = [dstRange s.core v.length] ∧
      admitted s.params (r64 s.core.dst) v.length = true ∧
      t = ((s.closeCtx.memWrite (r64 s.core.dst) v).setTag d).complete .none) ∨
    (∃ v, i = .aeadDecrypt ∧ writeRanges i s.core = [dstRange s.core v.length] ∧
      admitted s.params (r64 s.core.dst) v.length = true ∧
      t = (s.closeCtx.memWrite (r64 s.core.dst) v).complete .none) ∨
    (i = .zeroize ∧ t = zeroizeRule s) := by
  have early : ∀ {e : ErrCode} {P : Prop} (_ : e ∈ [ErrCode.counterRange, .length, .address, .overlap, .noContext])
      (_ : t = s.complete e), (∃ e, e ∈ [ErrCode.counterRange, .length, .address, .overlap, .noContext] ∧
        t = s.complete e) ∨ P := fun he ht => .inl ⟨_, he, ht⟩
  cases i
  · obtain rfl := Host.Outcome.next.inj h
    rcases chacha20Block_cases s with ⟨-, h⟩ | ⟨-, -, h⟩ | ⟨-, -, -, h⟩ | ⟨-, -, h2, h⟩
    · exact early (by simp) h
    · exact early (by simp) h
    · exact .inr (.inr (.inr (.inl ⟨_, by simp, rfl, h⟩)))
    · refine .inr (.inr (.inr (.inr (.inr (.inl ⟨_, rfl, ?_, ?_, h⟩)))))
      · rw [chachaBlock_length]; rfl
      · rw [chachaBlock_length]; exact h2
  · obtain rfl := Host.Outcome.next.inj h
    rcases chacha20Xor_cases s with
      ⟨-, h⟩ | ⟨-, -, h⟩ | ⟨-, -, -, h⟩ | ⟨-, -, -, -, h⟩ | ⟨h0, -, -, h3, h⟩
    · exact early (by simp) h
    · exact early (by simp) h
    · exact early (by simp) h
    · exact .inr (.inr (.inr (.inl ⟨_, by simp, rfl, h⟩)))
    · rw [Bool.and_eq_true] at h3
      refine .inr (.inr (.inr (.inr (.inr (.inr (.inl ⟨_, _, rfl, ?_, ?_, h0, h⟩))))))
      · rw [xorStream_length, State.memRead, readBytes_length]; rfl
      · rw [xorStream_length, State.memRead, readBytes_length]; exact h3.2
  · obtain rfl := Host.Outcome.next.inj h
    exact .inr (.inr (.inr (.inr (.inr (.inr (.inr (.inl ⟨rfl, rfl⟩)))))))
  · obtain rfl := Host.Outcome.next.inj h
    rcases poly1305Update_cases s with ⟨-, h⟩ | ⟨-, -, h⟩ | ⟨-, -, -, h⟩ | ⟨h0, -, -, h⟩
    · exact early (by simp) h
    · exact early (by simp) h
    · exact .inr (.inl ⟨by simp, h⟩)
    · exact .inr (.inr (.inr (.inr (.inr (.inr (.inr (.inr (.inl ⟨_, rfl, h0, h⟩))))))))
  · obtain rfl := Host.Outcome.next.inj h
    rcases poly1305Finish_cases s with ⟨-, h⟩ | ⟨-, h⟩
    · exact early (by simp) h
    · exact .inr (.inr (.inr (.inr (.inr (.inr (.inr (.inr (.inr (.inl ⟨_, by simp, h⟩)))))))))
  · obtain rfl := Host.Outcome.next.inj h
    rcases poly1305Auth_cases s with ⟨-, h⟩ | ⟨-, -, h⟩ | ⟨-, -, h⟩
    · exact early (by simp) h
    · exact .inr (.inl ⟨by simp, h⟩)
    · exact .inr (.inr (.inr (.inr (.inr (.inr (.inr (.inr (.inr (.inl ⟨_, by simp, h⟩)))))))))
  · obtain rfl := Host.Outcome.next.inj h
    rcases aeadEncrypt_cases s with
      ⟨-, h⟩ | ⟨-, -, h⟩ | ⟨-, -, -, h⟩ | ⟨-, -, -, -, h⟩ | ⟨-, -, -, h3, h⟩
    · exact early (by simp) h
    · exact early (by simp) h
    · exact early (by simp) h
    · exact .inr (.inr (.inr (.inr (.inl ⟨_, by simp, rfl, h⟩))))
    · rw [Bool.and_eq_true] at h3
      refine .inr (.inr (.inr (.inr (.inr (.inr (.inr (.inr (.inr (.inr (.inl ⟨_, _, rfl, ?_, ?_, h⟩))))))))))
      · rw [List.length_append, xorStream_length, State.memRead, readBytes_length, aeadTag, poly1305_length]; rfl
      · rw [List.length_append, xorStream_length, State.memRead, readBytes_length, aeadTag, poly1305_length]
        exact h3.2
  · obtain rfl := Host.Outcome.next.inj h
    rcases aeadDecrypt_cases s with
      ⟨-, h⟩ | ⟨-, -, h⟩ | ⟨-, -, -, h⟩ | ⟨-, -, -, -, h⟩ | ⟨-, -, -, -, -, h⟩ | ⟨-, -, -, -, -, -, h⟩ |
        ⟨-, -, -, -, -, h5, h⟩
    · exact early (by simp) h
    · exact early (by simp) h
    · exact early (by simp) h
    · exact .inr (.inl ⟨by simp, h⟩)
    · exact .inr (.inr (.inl ⟨rfl, h⟩))
    · exact .inr (.inr (.inr (.inr (.inl ⟨_, by simp, rfl, h⟩))))
    · refine .inr (.inr (.inr (.inr (.inr (.inr (.inr (.inr (.inr (.inr (.inr (.inl ⟨_, rfl, ?_, ?_, h⟩)))))))))))
      · rw [xorStream_length, State.memRead, readBytes_length]; rfl
      · rw [xorStream_length, State.memRead, readBytes_length]; exact h5
  · obtain rfl := Host.Outcome.next.inj h
    exact .inr (.inr (.inr (.inr (.inr (.inr (.inr (.inr (.inr (.inr (.inr (.inr ⟨rfl, rfl⟩)))))))))))

end Sys2Proof.Machine
end

