-- ==== Sys2Proof/Laws/Step.lean ====
section
/-! SUPPORT. The statements' words against the model's operations (Safety.lean, Machine/Ops.lean), the completed states as
record updates (43_control.md R233), and what a turn runs (43_control.md R232). -/

namespace Sys2Proof.Machine

/-! ### The range predicates -/

theorem rangeOk_iff (p : Params) (a n : Nat) : inRange p a n = true ↔ RangeOk p a n := inRange_iff p a n

theorem not_rangeOk {p : Params} {a n : Nat} (h : ¬RangeOk p a n) : inRange p a n = false := by
  rw [← Bool.not_eq_true, rangeOk_iff]; exact h

theorem allAdmitted_iff (p : Params) (a n : Nat) : admitted p a n = true ↔ AllAdmitted p a n := admitted_iff p a n

theorem not_allAdmitted {p : Params} {a n : Nat} (h : ¬AllAdmitted p a n) : admitted p a n = false := by
  rw [← Bool.not_eq_true, allAdmitted_iff]; exact h

theorem apart_iff (a n b k : Nat) : disjoint ⟨a, n⟩ ⟨b, k⟩ = true ↔ Apart a n b k := disjoint_iff _ _

theorem freeOnlyIn_freeBytes (p : Params) (m : Memory) (d a n : Nat) : FreeOnlyIn p m (freeBytes p m d a n) a n :=
  fun _ h => readByte_freeBytes h

theorem wrote_writeBytes (m : Memory) (a : Nat) (v : List Byte) : Wrote m (writeBytes m a v) a v :=
  fun x => readByte_writeBytes m a v x

/-! ### Completed states -/

theorem complete_eq (s : State) (e : ErrCode) : s.complete e = { s with core := s.core.ended (errNumber e) } := rfl

theorem closeCtx_complete (s : State) (e : ErrCode) :
    s.closeCtx.complete e = { s with core := { s.core.ended (errNumber e) with ctx := PolyCtx.closed } } := rfl

theorem scribble_complete (s : State) (a n : Nat) (e : ErrCode) :
    (s.scribble a n).complete e = { s with
      core := s.core.ended (errNumber e), mem := freeBytes s.params s.mem s.draws a n, draws := s.draws + n } := rfl

theorem closeCtx_scribble_complete (s : State) (a n : Nat) (e : ErrCode) :
    (s.closeCtx.scribble a n).complete e = { s with
      core := { s.core.ended (errNumber e) with ctx := PolyCtx.closed },
      mem := freeBytes s.params s.mem s.draws a n, draws := s.draws + n } := rfl

theorem memWrite_complete (s : State) (a : Nat) (v : List Byte) (e : ErrCode) :
    (s.memWrite a v).complete e = { s with core := s.core.ended (errNumber e), mem := writeBytes s.mem a v } := rfl

theorem closeCtx_memWrite_complete (s : State) (a : Nat) (v : List Byte) (e : ErrCode) :
    (s.closeCtx.memWrite a v).complete e = { s with
      core := { s.core.ended (errNumber e) with ctx := PolyCtx.closed }, mem := writeBytes s.mem a v } := rfl

/-- The counter written back splits into COUNTER and CTR_EXH (10_state.md R29). -/
theorem memWrite_setCtr33_complete (s : State) (a : Nat) (v : List Byte) {n : Nat} (h : n ≤ 2 ^ 32) (e : ErrCode) :
    ((s.memWrite a v).setCtr33 n).complete e = { s with
      core := { s.core.ended (errNumber e) with counter := BitVec.ofNat 32 n, ctrExh := decide (n = 2 ^ 32) },
      mem := writeBytes s.mem a v } := by
  have h1 : BitVec.ofNat 32 (n % 2 ^ 32) = BitVec.ofNat 32 n := by apply BitVec.eq_of_toNat_eq; simp
  have h2 : (n / 2 ^ 32 != 0) = decide (n = 2 ^ 32) := by
    rw [Bool.eq_iff_iff]; simp only [bne_iff_ne, decide_eq_true_eq]; omega
  rw [State.setCtr33, h1, h2]; rfl

theorem closeCtx_memWrite_setTag_complete (s : State) (a : Nat) (v t : List Byte) (e : ErrCode) :
    ((s.closeCtx.memWrite a v).setTag t).complete e = { s with
      core := { s.core.ended (errNumber e) with tag := tagWords t, ctx := PolyCtx.closed },
      mem := writeBytes s.mem a v } := rfl

/-! ### Every command -/

/-- A command ends completed, with a code of 60_exceptions.md R260. -/
theorem exec_completed {i : Instr} {s t : State} (h : exec i s = .next t) :
    t.core.busy = false ∧ t.core.done = true ∧ t.core.errcode.toNat ≤ 8 := by
  have code : ∀ (u : State) (e : ErrCode), (u.complete e).core.errcode.toNat ≤ 8 := by
    intro u e; cases e <;> simp [errNumber]
  rcases exec_shapes h with ⟨_, -, rfl⟩ | ⟨-, rfl⟩ | ⟨-, rfl⟩ | ⟨_, -, -, rfl⟩ | ⟨_, -, -, rfl⟩ | ⟨_, -, -, -, rfl⟩ |
    ⟨_, _, -, -, -, -, rfl⟩ | ⟨-, rfl⟩ | ⟨_, -, -, rfl⟩ | ⟨_, -, rfl⟩ | ⟨_, _, -, -, -, rfl⟩ | ⟨_, -, -, -, rfl⟩ |
    ⟨-, rfl⟩
  all_goals exact ⟨rfl, rfl, code _ _⟩

/-! ### Command words -/

/-- RSVD is zero exactly below 2^8 (30_encoding.md R90). -/
theorem rsvdOf_eq_zero_iff (w : Word) : rsvdOf w = 0 ↔ w.toNat < 2 ^ 8 := by
  rw [← BitVec.toNat_inj]
  simp only [rsvdOf, BitVec.extractLsb'_toNat, Nat.shiftRight_eq_div_pow]
  have := w.isLt
  change w.toNat / 2 ^ 8 % 2 ^ 24 = 0 ↔ _
  omega

/-- A word decodes to a command only if it is that command's word. -/
theorem eq_encode_of_decode {w : Word} {i : Instr} (h : decode w = .ok i) : w = encode i := by
  unfold decode at h
  split at h
  · next h0 =>
    split at h
    · next j hj =>
      cases h
      rw [word_fields w, word_fields (encode i), ← decodeOpcode_eq_some hj, h0, encode_rsvd]
    · cases h
  · cases h

@[simp] theorem decode_encode (i : Instr) : decode (encode i) = .ok i := by cases i <;> rfl

/-- A word that is no command's is illegal (30_encoding.md R94). -/
theorem decode_illegal {w : Word} (h : ∀ i, w ≠ encode i) : ∃ e, decode w = .error e := by
  cases hd : decode w with
  | ok i => exact absurd (eq_encode_of_decode hd) (h i)
  | error e => exact ⟨e, rfl⟩

theorem regAt_eq_some {off : Nat} {r : Reg} (h : regAt off = some r) : off = regOffset r := by
  unfold regAt at h
  split at h <;> simp only [Option.some.injEq, reduceCtorEq] at h <;> subst h <;> rfl

@[simp] theorem regAt_regOffset (r : Reg) : regAt (regOffset r) = some r := by
  cases r with
  | key i => fin_cases i <;> rfl
  | nonce i => fin_cases i <;> rfl
  | tag i => fin_cases i <;> rfl
  | _ => rfl

/-! ### Turns -/

theorem engineTurn_ok {s : State} {i : Instr} (hb : s.core.busy = true) (h : decode s.core.cmd = .ok i) :
    engineTurn s = exec i s := by
  unfold engineTurn; rw [if_pos hb, h]

theorem engineTurn_illegal {s : State} (hb : s.core.busy = true) (h : ∀ i, s.core.cmd ≠ encode i) :
    engineTurn s = .next (s.complete .illegalCmd) := by
  obtain ⟨e, he⟩ := decode_illegal h
  unfold engineTurn; rw [if_pos hb, he]; rfl

theorem engineTurn_idle {s : State} (hb : s.core.busy = false) : engineTurn s = .next s := by
  unfold engineTurn; simp [hb]

/-- What an engine's turn can do, all of it. -/
theorem engineTurn_cases (s : State) :
    (s.core.busy = false ∧ engineTurn s = .next s) ∨
      (s.core.busy = true ∧ engineTurn s = .next (s.complete .illegalCmd)) ∨
      ∃ i, s.core.busy = true ∧ decode s.core.cmd = .ok i ∧ engineTurn s = exec i s := by
  cases hb : s.core.busy
  · exact .inl ⟨rfl, engineTurn_idle hb⟩
  · cases hd : decode s.core.cmd with
    | ok i => exact .inr (.inr ⟨i, rfl, rfl, engineTurn_ok hb hd⟩)
    | error e => exact .inr (.inl ⟨rfl, by unfold engineTurn; rw [if_pos hb, hd]; rfl⟩)

/-- An engine's turn keeps what commands keep (60_exceptions.md R277). -/
theorem engineTurn_kept {s t : State} (h : engineTurn s = .next t) : KeptByCommands s t := by
  rcases engineTurn_cases s with ⟨-, h'⟩ | ⟨-, h'⟩ | ⟨i, -, -, h'⟩ <;> rw [h'] at h
  · obtain rfl := Host.Outcome.next.inj h; exact kept_refl _
  · obtain rfl := Host.Outcome.next.inj h; exact kept_complete _ (kept_refl _)
  · exact exec_kept h

theorem step_engine {s u : State} {k : Nat} {rest : List Turn} (ht : s.turns = .engine k :: rest)
    (hu : ({ s with turns := rest } : State).focus k = some u) : step s = engineTurn u := by
  unfold step nextTurn; rw [ht]; show withInst k _ engineTurn = _
  unfold withInst; rw [hu]

theorem firstBusy_eq_none {l : List Inst} (h : ∀ c ∈ l, c.busy = false) : firstBusy l = none := by
  induction l with
  | nil => rfl
  | cons c l ih =>
    unfold firstBusy
    rw [ih (fun c hc => h c (by simp [hc]))]; simp [h c]

end Sys2Proof.Machine
end

