-- ==== Sys2Proof/Laws/HostAccess.lean ====
section
/-! SUPPORT. Host access (43_control.md R236, R237): which register an offset is, the host's variables, the register
transactions at an address, and labels. -/

namespace Sys2Proof.Machine

/-- The reserved offsets (10_state.md R32). -/
theorem regAt_reserved {off : Nat}
    (h : (0x010 ≤ off ∧ off ≤ 0x01C) ∨ (0x078 ≤ off ∧ off ≤ 0x07C) ∨ 0x090 ≤ off) : regAt off = none := by
  cases hr : regAt off with
  | none => rfl
  | some r =>
    have := regAt_eq_some hr
    subst this
    cases r <;> simp only [regOffset] at h <;> omega

theorem regOffset_aligned (r : Reg) : regOffset r % 4 = 0 := by cases r <;> simp only [regOffset] <;> omega

/-- A variable reads what was last put in it. -/
@[simp] theorem getVar_setVar_same (s : State) (x : Nat) (v : Word) : getVar (s.setVar x v).host x = v := by
  simp [getVar, State.setVar]

theorem getVar_setVar_other (s : State) {x y : Nat} (v : Word) (h : y ≠ x) :
    getVar (s.setVar x v).host y = getVar s.host y := by
  simp only [getVar, State.setVar]
  rw [List.find?_cons_of_neg (by simpa using Ne.symm h), List.find?_filter]
  congr 2
  funext p
  by_cases hp : p.1 = y <;> simp [hp, h]

/-- An aligned 32-bit write to a register other than CMD (R236). -/
theorem busWrite_reg {s u : State} {addr : Nat} (v : Word) (h : s.focusAddr addr = some u)
    (hh : u.core.held = false) (ha : (addr - u.core.base) % 4 = 0) (hn : regAt (addr - u.core.base) ≠ some .cmd) :
    busWrite addr 4 v s = .next { u with core := regWrite (addr - u.core.base) v u.core } := by
  unfold busWrite; rw [h]
  show (if regAccessOk _ _ then _ else _) = _
  rw [if_pos (by simp [regAccessOk, ha])]
  unfold hostRegWrite
  rw [if_neg (by simp [hh]), if_neg hn]; rfl

/-- An aligned 32-bit write to a CORE held in reset (70_reset_and_hazards.md R300; assumption 10). -/
theorem busWrite_held {s u : State} {addr : Nat} (v : Word) (h : s.focusAddr addr = some u)
    (hh : u.core.held = true) (ha : (addr - u.core.base) % 4 = 0) : busWrite addr 4 v s = .next u := by
  unfold busWrite; rw [h]
  show (if regAccessOk _ _ then _ else _) = _
  rw [if_pos (by simp [regAccessOk, ha]), hostRegWrite, if_pos hh]

/-- An aligned 32-bit write to CMD (R231). -/
theorem busWrite_cmd {s u : State} {addr : Nat} (v : Word) (h : s.focusAddr addr = some u)
    (hh : u.core.held = false) (ha : addr - u.core.base = 0x008) : busWrite addr 4 v s = writeCmd v u := by
  unfold busWrite; rw [h]
  show (if regAccessOk _ _ then _ else _) = _
  rw [ha, if_pos (by rfl), hostRegWrite, if_neg (by simp [hh])]
  rfl

/-- An aligned 32-bit read (R237). -/
theorem busRead_reg {s u : State} {addr : Nat} (x : Nat) (h : s.focusAddr addr = some u)
    (ha : (addr - u.core.base) % 4 = 0) :
    busRead addr 4 x s = .next (hostRegRead (addr - u.core.base) x u) := by
  unfold busRead; rw [h]
  show (if regAccessOk _ _ then _ else _) = _
  rw [if_pos (by simp [regAccessOk, ha])]

/-- Finding an instance by address only moves the focus. -/
theorem focusAddr_eq_some {s u : State} {addr : Nat} (h : s.focusAddr addr = some u) : ∃ k, s.focus k = some u := by
  unfold State.focusAddr at h
  split at h
  · exact ⟨_, h⟩
  · cases h

theorem focusAddr_host {s u : State} {addr : Nat} (h : s.focusAddr addr = some u) : u.host = s.host := by
  obtain ⟨k, hk⟩ := focusAddr_eq_some h
  rw [(focus_eq_some hk).2.1]

/-! ### Labels (30_encoding.md R95; assumption 14) -/

/-- A label's position is the first statement that is that label. -/
theorem labelPos_first {l n : Nat} {prog : List HostStmt} (h : prog[n]? = some (.label l))
    (hf : ∀ m, m < n → prog[m]? ≠ some (.label l)) : labelPos l prog = some n := by
  induction prog generalizing n with
  | nil => simp at h
  | cons st prog ih =>
    unfold labelPos
    cases n with
    | zero => rw [if_pos (by simpa using h)]
    | succ n =>
      have h0 : st ≠ .label l := by simpa using hf 0 (by omega)
      rw [if_neg h0, ih (by simpa using h) fun m hm => by simpa using hf (m + 1) (by omega)]

/-- A label that no statement is has no position. -/
theorem labelPos_none {l : Nat} {prog : List HostStmt} (h : .label l ∉ prog) : labelPos l prog = none := by
  induction prog with
  | nil => rfl
  | cons st prog ih =>
    simp only [List.mem_cons, not_or] at h
    unfold labelPos
    rw [if_neg (Ne.symm h.1), ih h.2]

end Sys2Proof.Machine
end

