-- ==== Sys2Proof/Laws/PerInstr.lean ====
section
/-! SUPPORT. The statements made for every constructor of Instr: its word decodes to it (30_encoding.md R91). -/

namespace Sys2Proof.Laws.DecodeEncode

/-- The command's own word is legal and decodes to the command. -/
def Statement (i : Instr) : Prop := decode (encode i) = .ok i ∧ cmdWordWf (encode i) = true

theorem chacha20Block : Statement .chacha20Block := by unfold Statement; decide
theorem chacha20Xor : Statement .chacha20Xor := by unfold Statement; decide
theorem poly1305Init : Statement .poly1305Init := by unfold Statement; decide
theorem poly1305Update : Statement .poly1305Update := by unfold Statement; decide
theorem poly1305Finish : Statement .poly1305Finish := by unfold Statement; decide
theorem poly1305Auth : Statement .poly1305Auth := by unfold Statement; decide
theorem aeadEncrypt : Statement .aeadEncrypt := by unfold Statement; decide
theorem aeadDecrypt : Statement .aeadDecrypt := by unfold Statement; decide
theorem zeroize : Statement .zeroize := by unfold Statement; decide

end Sys2Proof.Laws.DecodeEncode
end

