-- ==== Sys2Proof/Tests/Slice0.lean ====
section
/-! SUPPORT. The model's own tests. Every expected value is the spec's: 95_test_vectors.md (V1 to V13, P1 to P5) or the
rule named beside it. -/

namespace Sys2Proof.Tests

open Sys2Proof.Machine

/-! ### WellFormed: each check refuses an ill-formed term -/

theorem test_wf_word_refused_rsvd : cmdWordWf 0x00000102 = false := by decide
theorem test_wf_word_refused_opcode : cmdWordWf 0x00000003 = false := by decide
theorem test_wf_word_accepted : cmdWordWf 0x00000021 = true := by decide
theorem test_wf_params_refused_paW_zero : Params.wf { paW := 0, ordinary := [] } = false := by decide
theorem test_wf_params_refused_paW_65 : Params.wf { paW := 65, ordinary := [] } = false := by decide
theorem test_wf_params_refused_region : Params.wf { paW := 8, ordinary := [⟨0, 257⟩] } = false := by decide
theorem test_wf_params_accepted : Params.ofVectors.wf = true := by decide
theorem test_wf_bases_refused_unaligned : basesWf [0x1800] = false := by decide
theorem test_wf_bases_refused_twice : basesWf [0x1000, 0x1000] = false := by decide
theorem test_wf_bases_accepted : basesWf [0x1000, 0x4000] = true := by decide
theorem test_wf_host_refused_width : hostProgramWf [.write 0x0 8 0] = false := by decide
theorem test_wf_host_refused_alignment : hostProgramWf [.read 0x2 4 0] = false := by decide
theorem test_wf_host_refused_label : hostProgramWf [.bnz 0 1 7] = false := by decide
theorem test_wf_host_accepted : hostProgramWf (asmRun 0 .zeroize 1 0) = true := by decide

/-! ### Decode: a word of each command, written bit by bit from 30_encoding.md R91 -/

theorem test_decode_chacha20Block : decode 0b00000000000000000000000000000001#32 = .ok .chacha20Block := by decide
theorem test_decode_chacha20Xor : decode 0b00000000000000000000000000000010#32 = .ok .chacha20Xor := by decide
theorem test_decode_poly1305Init : decode 0b00000000000000000000000000010000#32 = .ok .poly1305Init := by decide
theorem test_decode_poly1305Update : decode 0b00000000000000000000000000010001#32 = .ok .poly1305Update := by decide
theorem test_decode_poly1305Finish : decode 0b00000000000000000000000000010010#32 = .ok .poly1305Finish := by decide
theorem test_decode_poly1305Auth : decode 0b00000000000000000000000000010011#32 = .ok .poly1305Auth := by decide
theorem test_decode_aeadEncrypt : decode 0b00000000000000000000000000100000#32 = .ok .aeadEncrypt := by decide
theorem test_decode_aeadDecrypt : decode 0b00000000000000000000000000100001#32 = .ok .aeadDecrypt := by decide
theorem test_decode_zeroize : decode 0b00000000000000000000000000110000#32 = .ok .zeroize := by decide

/-- The illegal words of V13, and the gaps' edges of R94. -/
theorem test_decode_illegal :
    ([0x00000000, 0x00000003, 0x0000000F, 0x00000014, 0x0000001F, 0x00000022, 0x0000002F, 0x00000031,
      0x000000FF] : List Word).all (fun w => decode w == .error .unassignedOpcode) = true := by decide

theorem test_decode_reserved :
    ([0x00000101, 0x00000102, 0x80000001] : List Word).all (fun w => decode w == .error .reservedBits) = true := by
  decide

theorem test_decodeTableWord : decodeTableWord 32 0x20 = some .aeadEncrypt := by decide

/-! ### Small states -/

/-- `n` bytes written in hex with byte 0 first, as 95_test_vectors.md writes them. -/
def hexBytes (n x : Nat) : List Byte := (serNat n x).reverse

/-- A 32-byte key loaded as LDKEY loads it (30_encoding.md R96). -/
def withKey (k : List Byte) (s : State) : State :=
  s.setCore { s.core with key := #v[le32At k 0, le32At k 1, le32At k 2, le32At k 3, le32At k 4, le32At k 5,
                                   le32At k 6, le32At k 7] }

/-- A 12-byte nonce loaded as LDNONCE loads it (30_encoding.md R96). -/
def withNonce (n : List Byte) (s : State) : State :=
  s.setCore { s.core with nonce := #v[le32At n 0, le32At n 1, le32At n 2] }

/-- SRC, DST and LEN set. -/
def withRanges (a d l : Nat) (s : State) : State :=
  s.setCore { s.core with src := ⟨BitVec.ofNat 32 a, BitVec.ofNat 32 (a / 2 ^ 32)⟩,
                          dst := ⟨BitVec.ofNat 32 d, BitVec.ofNat 32 (d / 2 ^ 32)⟩,
                          len := ⟨BitVec.ofNat 32 l, BitVec.ofNat 32 (l / 2 ^ 32)⟩ }

/-- AAD and AADLEN set. -/
def withAad (a l : Nat) (s : State) : State :=
  s.setCore { s.core with aad := ⟨BitVec.ofNat 32 a, 0⟩, aadlen := ⟨BitVec.ofNat 32 l, 0⟩ }

/-- COUNTER and CTR_EXH set. -/
def withCounter (v : Word) (e : Bool) (s : State) : State :=
  s.setCore { s.core with counter := v, ctrExh := e }

/-- The state a command leaves. -/
def after (i : Instr) (s : State) : State :=
  match exec i s with
  | .next t => t
  | .fault _ => s
  | .refused _ => s

/-- STATUS after a command. -/
def statusAfter (i : Instr) (s : State) : Word := statusWord (after i s).core

def k1 : List Byte := hexBytes 32 0x000102030405060708090a0b0c0d0e0f101112131415161718191a1b1c1d1e1f
def n1 : List Byte := hexBytes 12 0x000000000000004a00000000
def pt : List Byte :=
  hexBytes 114 0x4c616469657320616e642047656e746c656d656e206f662074686520636c617373206f66202739393a204966204920636f756c64206f6666657220796f75206f6e6c79206f6e652074697020666f7220746865206675747572652c2073756e73637265656e20776f756c642062652069742e
def ct1 : List Byte :=
  hexBytes 114 0x6e2e359a2568f98041ba0728dd0d6981e97e7aec1d4360c20a27afccfd9fae0bf91b65c5524733ab8f593dabcd62b3571639d624e65152ab8f530c359f0861d807ca0dbf500d6a6156a38e088a22b65e52bc514d16ccf806818ce91ab77937365af90bbf74a35be6b40b8eedf2785e42874d
def k2 : List Byte := hexBytes 32 0x85d6be7857556d337f4452fe42d506a80103808afb0db2fd4abff6af4149f51b
def msg2 : List Byte := hexBytes 34 0x43727970746f6772617068696320466f72756d2052657365617263682047726f7570
def k3 : List Byte := hexBytes 32 0x808182838485868788898a8b8c8d8e8f909192939495969798999a9b9c9d9e9f
def n3 : List Byte := hexBytes 12 0x070000004041424344454647
def ad3 : List Byte := hexBytes 12 0x50515253c0c1c2c3c4c5c6c7
def ct3 : List Byte :=
  hexBytes 114 0xd31a8d34648e60db7b86afbc53ef7ec2a4aded51296e08fea9e2b5a736ee62d63dbea45e8ca9671282fafb69da92728b1a71de0a9e060b2905d6a5b67ecd3b3692ddbd7f2d778b8c9803aee328091b58fab324e4fad675945585808b4831d7bc3ff4def08e4b7a9de576d26586cec64b6116
def tag3 : List Byte := hexBytes 16 0x1ae10b594f09e26a7e902ecbd0600691

/-! ### ChaCha20 -/

/-- V5, the quarter-round rows (40_chacha20.md R113). -/
theorem test_quarterRound_wraps :
    (quarterRound (Vector.replicate 16 0xffffffff) 0 5 10 15).toList =
      [0xf0000ffd, 0xffffffff, 0xffffffff, 0xffffffff, 0xffffffff, 0x88790878, 0xffffffff, 0xffffffff, 0xffffffff,
       0xffffffff, 0x0110fdef, 0xffffffff, 0xffffffff, 0xffffffff, 0xffffffff, 0x010ffdf0] := by decide

/-- V6, X and the block (40_chacha20.md R112, R118). -/
theorem test_init_matrix :
    chachaInit k1 (hexBytes 12 0x000000090000004a00000000) 1 =
      #v[0x61707865, 0x3320646e, 0x79622d32, 0x6b206574, 0x03020100, 0x07060504, 0x0b0a0908, 0x0f0e0d0c, 0x13121110,
         0x17161514, 0x1b1a1918, 0x1f1e1d1c, 0x00000001, 0x09000000, 0x4a000000, 0x00000000] := by decide

theorem test_block_v6 :
    chachaBlock k1 (hexBytes 12 0x000000090000004a00000000) 1 =
      hexBytes 64 0x10f1e7e4d13b5915500fdd1fa32071c4c7d1f4c733c068030422aa9ac3d46c4ed2826446079faa0914c2d705d98b02a2b5129cd1de164eb9cbd083e8a2503c4e := by
  decide +kernel

/-- V7, the third row: COUNTER = 0xFFFFFFFF is legal and stays. -/
theorem test_chacha20Block_last_counter :
    let t := after .chacha20Block (withCounter 0xFFFFFFFF false (withRanges 0 0x100 0 State.reset))
    t.memRead 0x100 64 =
        hexBytes 64 0xace4cd09e294d1912d4ad205d06f95d9c2f2bfcf453e8753f128765b62215f4d92c74f2f626c6a640c0b1284d839ec81f1696281dafc3e684593937023b58b1d ∧
      t.core.counter = 0xFFFFFFFF ∧ statusWord t.core = 0x00000002 := by decide +kernel

/-- V7, corners: CTR_EXH = 1; PA_W = 32 with DST = 0xFFFFFFC1; MemAdmit(a) = (a < 0x8000) with DST = 0x7FC1. -/
theorem test_chacha20Block_errors :
    statusAfter .chacha20Block (withCounter 0 true State.reset) = 0x00000226 ∧
    statusAfter .chacha20Block (withRanges 0 0xFFFFFFC1 0
      { State.reset with params := { paW := 32, ordinary := [⟨0, 2 ^ 32⟩] } }) = 0x00000046 ∧
    statusAfter .chacha20Block (withRanges 0 0x7FC1 0
      { State.reset with params := { paW := 32, ordinary := [⟨0, 0x8000⟩] } }) = 0x00000086 := by decide +kernel

/-- V1, program P1's first command. -/
theorem test_chacha20Xor_v1 :
    let s := (withCounter 1 false (withRanges 0x1000 0x2000 114 (withNonce n1 (withKey k1 State.reset)))).memWrite 0x1000 pt
    let t := after .chacha20Xor s
    t.memRead 0x2000 114 = ct1 ∧ t.core.counter = 3 ∧ t.core.ctrExh = false ∧ statusWord t.core = 0x00000002 := by
  decide +kernel

/-- V8 and P4, P5: the counter reaches its end, a length past it, partial overlap, adjacency, a wrapping range. -/
theorem test_chacha20Xor_corners :
    statusAfter .chacha20Xor (withCounter 0xFFFFFFFF false (withRanges 0 0x100 64 State.reset)) = 0x00000202 ∧
    statusAfter .chacha20Xor (withCounter 0xFFFFFFFF false (withRanges 0 0x100 65 State.reset)) = 0x00000026 ∧
    statusAfter .chacha20Xor (withCounter 0 false (withRanges 0 0x100 (2 ^ 38 + 1) State.reset)) = 0x00000026 ∧
    statusAfter .chacha20Xor (withCounter 0 true (withRanges 0 0x100 0 State.reset)) = 0x00000202 ∧
    statusAfter .chacha20Xor (withCounter 0 true (withRanges 0x100 0x101 1 State.reset)) = 0x00000226 ∧
    statusAfter .chacha20Xor (withCounter 1 false (withRanges 0x101 0x100 2 State.reset)) = 0x00000056 ∧
    statusAfter .chacha20Xor (withCounter 1 false (withRanges 0x100 0x102 2 State.reset)) = 0x00000002 ∧
    statusAfter .chacha20Xor (withCounter 1 false (withRanges 0xFFFFFFFFFFFFFFFF 0 2 State.reset)) = 0x00000046 ∧
    statusAfter .chacha20Xor (withCounter 1 false (withRanges 0xFFFFFFFFFFFFFFFF 0 1 State.reset)) = 0x00000002 := by
  decide +kernel

/-! ### Poly1305 -/

/-- The corners of V9: key, message and tag. -/
theorem test_poly1305_corners :
    poly1305 (serNat 16 0 ++ serNat 16 0x0123456789abcdef0011223344556677) (hexBytes 11 0x68656c6c6f20776f726c64) =
        hexBytes 16 0x7766554433221100efcdab8967452301 ∧
    poly1305 (serNat 16 1 ++ serNat 16 0) [0] = hexBytes 16 0x00010000000000000000000000000000 ∧
    poly1305 (serNat 16 1 ++ serNat 16 (2 ^ 128 - 1)) (zeroBytes 16) = hexBytes 16 0xffffffffffffffffffffffffffffffff ∧
    poly1305 (serNat 16 2 ++ serNat 16 0) (List.replicate 16 0xff) = hexBytes 16 0x03000000000000000000000000000000 ∧
    poly1305 (serNat 16 2 ++ serNat 16 0) (0xfd :: List.replicate 15 0xff) =
        hexBytes 16 0xfaffffffffffffffffffffffffffffff ∧
    poly1305 (serNat 16 1 ++ serNat 16 0)
        (List.replicate 16 0xff ++ (0xfb :: List.replicate 15 0xfe) ++ List.replicate 16 0x01) = zeroBytes 16 := by
  decide +kernel

/-- Clamp corners of V9 and R151. -/
theorem test_clamp :
    clamp (BitVec.allOnes 128) = 0x0ffffffc0ffffffc0ffffffc0fffffff ∧
    clamp 0xa806d542fe52447f336d555778bed685 = 0x0806d5400e52447c036d555408bed685 := by decide

/-- V2 by POLY1305_AUTH, an open context closed (V11). -/
theorem test_poly1305Auth_v2 :
    let s := (withRanges 0x100 0 34 (withKey k2 State.reset)).memWrite 0x100 msg2
    let t := after .poly1305Auth (after .poly1305Init s)
    t.core.tag = #v[0xc11d06a8, 0xc6365130, 0xaf8b2bc2, 0xa927010c] ∧ statusWord t.core = 0x00000002 := by
  decide +kernel

/-- P2: INIT, UPDATE of 5, 20 and 9 bytes, FINISH, and a FINISH too many. -/
theorem test_poly1305_incremental_p2 :
    let s := (withKey k2 State.reset).memWrite 0x100 msg2
    let a := after .poly1305Init s
    let b := after .poly1305Update (withRanges 0x100 0 5 a)
    let c := after .poly1305Update (withRanges 0x105 0 20 b)
    let d := after .poly1305Update (withRanges 0x119 0 9 c)
    let e := after .poly1305Finish d
    let f := after .poly1305Finish e
    statusWord a.core = 0x00000102 ∧ statusWord b.core = 0x00050102 ∧ statusWord c.core = 0x00090102 ∧
      statusWord d.core = 0x00020102 ∧ statusWord e.core = 0x00000002 ∧ statusWord f.core = 0x00000066 ∧
      e.core.tag = #v[0xc11d06a8, 0xc6365130, 0xaf8b2bc2, 0xa927010c] ∧ f.core.tag = e.core.tag := by
  decide +kernel

/-- V11: an UPDATE's ADDRESS failure keeps the context; a BUS_ERROR closes it. -/
theorem test_poly1305Update_errors :
    statusAfter .poly1305Update (withRanges 0xFFFFFFFFFFFFFFFF 0 2 (after .poly1305Init State.reset)) = 0x00000146 ∧
    statusAfter .poly1305Update (withRanges 0x1F0 0 0x20
      { after .poly1305Init State.reset with params := { paW := 64, ordinary := [⟨0, 0x200⟩] } }) = 0x00000086 := by
  decide +kernel

/-! ### AEAD -/

/-- V12: the one-time key and the MAC data. -/
theorem test_oneTimeKey_v12 :
    oneTimeKey k3 n3 = hexBytes 32 0x7bac2b252db447af09b67a55a4e955840ae1d6731075d9eb2a9375783ed553ff := by
  decide +kernel

theorem test_macData_v12 :
    (macData ad3 ct3).length = 160 ∧
    (macData ad3 ct3).drop 128 =
      hexBytes 32 0x611600000000000000000000000000000c000000000000007200000000000000 := by decide +kernel

/-- V3 in place, as V12's row (SRC = DST = 0x4000, AAD at 0x3000). -/
def aeadStart : State :=
  ((withAad 0x3000 12 (withRanges 0x4000 0x4000 114 (withNonce n3 (withKey k3 State.reset)))).memWrite 0x3000
    ad3).memWrite 0x4000 pt

theorem test_aeadEncrypt_v3 :
    let t := after .aeadEncrypt aeadStart
    t.memRead 0x4000 130 = ct3 ++ tag3 ∧ t.core.tag = #v[0x590be11a, 0x6ae2094f, 0xcb2e907e, 0x910660d0] ∧
      t.core.counter = 0 ∧ statusWord t.core = 0x00000002 := by decide +kernel

/-- P3's second part in place: the ciphertext and the tag of V3. -/
def aeadReceived : State := (aeadStart.memWrite 0x4000 ct3).setTag tag3

/-- P3 in place: the ciphertext and the tag of V3 decrypt to the plaintext; TAG3 with bit 31 flipped does not. -/
theorem test_aeadDecrypt_p3 :
    let t := after .aeadDecrypt aeadReceived
    let u := after .aeadDecrypt (aeadReceived.setCore { aeadReceived.core with
      tag := #v[0x590be11a, 0x6ae2094f, 0xcb2e907e, 0x110660d0] })
    t.memRead 0x4000 114 = pt ∧ t.core.errcode = 0 ∧ statusWord t.core = 0x00000002 ∧
      statusWord u.core = 0x0000007E ∧ u.mem = aeadReceived.mem := by
  decide +kernel

/-- V12: LENGTH, and the AAD range on the tag bytes. -/
theorem test_aeadEncrypt_errors :
    statusAfter .aeadEncrypt (withAad 0x3000 12 (withRanges 0x4000 0x5000 0x3FFFFFFFC1 State.reset)) = 0x00000036 ∧
    statusAfter .aeadEncrypt (withAad 0x5072 12 (withRanges 0x4000 0x5000 114 State.reset)) = 0x00000056 ∧
    statusAfter .aeadEncrypt (withAad 0x3000 12 (withRanges 0x4000 0x4001 114 State.reset)) = 0x00000056 := by
  decide +kernel

/-! ### Control, registers, host -/

theorem test_zeroize :
    let t := after .zeroize ((withKey k3 State.reset).setTag tag3)
    t.core.key = Vector.replicate 8 0 ∧ t.core.tag = Vector.replicate 4 0 ∧ statusWord t.core = 0x00000002 := by decide

/-- V13: the illegal command from reset (43_control.md R234). -/
theorem test_illegal_status :
    (match step (State.reset.withFetchWord 32 0x102) with
      | .next t => statusWord t.core
      | _ => 0) = 0x00000016 := by decide

/-- The state one host statement leaves, if it goes on. -/
def hostDoes (st : HostStmt) (s : State) : State :=
  match runStmt st s with
  | .next t => t
  | _ => s

/-- V13 up to the engine step: CTRL, KEY0 write-only, a reserved offset, the doorbell, a dropped CMD write. -/
def v13 : State :=
  [asmWr 0 .ctrl 0xFFFFFFFF, asmWr 0 (.key 0) 0x12345678, .write 0x010 4 5, asmCmd 0 .zeroize,
    asmCmd 0 .chacha20Block].foldl (fun s st => hostDoes st s) State.reset

theorem test_v13_registers :
    regRead 0x000 v13.core = 0x00078439 ∧ regRead 0x004 v13.core = 1 ∧ regRead 0x020 v13.core = 0 ∧
      v13.core.key[0] = 0x12345678 ∧ regRead 0x010 v13.core = 0 ∧ regRead 0x008 v13.core = 0x30 ∧
      regRead 0x00C v13.core = 0x00000401 ∧ irqLevel v13.core = false := by decide

theorem test_v13_completion :
    let t := after .zeroize v13
    statusWord t.core = 0x00000402 ∧ irqLevel t.core = true ∧
      statusWord (writeStatus 0x2 t.core) = 0x00000400 ∧ statusWord (writeStatus 0x402 t.core) = 0 := by decide

/-- V13's last row: a misaligned read is a host fault. -/
theorem test_misaligned_read : (match busRead 0x002 4 0 State.reset with
    | .fault .hostAccess => true
    | _ => false) = true := by decide

/-- R96's example: `LDKEY 000102…1f` begins `W 0x020 0x03020100` and ends `W 0x03C 0x1f1e1d1c`. -/
theorem test_ldkey : (asmLdKey 0 k1).head? = some (.write 0x020 4 0x03020100) ∧
    (asmLdKey 0 k1).getLast? = some (.write 0x03C 4 0x1f1e1d1c) := by decide

/-- 20_memory.md R76: a host store to a pending command's range is a race; after the observed completion it is not. -/
theorem test_busy_rule :
    let s := hostDoes (asmCmd 0 .chacha20Block) State.reset
    let t := hostDoes (asmRd 0 .status 0) (after .chacha20Block s)
    (match storeByte 0x3F 1 s with | .fault .bufferRace => true | _ => false) = true ∧
    (match storeByte 0x40 1 s with | .next _ => true | _ => false) = true ∧
    (match storeByte 0x3F 1 t with | .next _ => true | _ => false) = true := by decide +kernel

/-- 70_reset_and_hazards.md R300, R301: while the reset input is asserted a doorbell and a KEY write reach nothing and the
registers read their reset values; after the release a KEY write is stored. -/
theorem test_reset_level :
    let h := assertReset (v13.setCore { v13.core with done := true, busy := false })
    let t := hostDoes (asmWr 0 (.key 0) 5) (hostDoes (asmCmd 0 .zeroize) h)
    let u := hostDoes (asmWr 0 (.key 0) 5) (releaseReset t)
    t = h ∧ regRead 0x000 t.core = 0x00078439 ∧ regRead 0x00C t.core = 0 ∧ t.core.key[0] = 0 ∧ u.core.key[0] = 5 := by
  decide +kernel

/-- 20_memory.md R82: a second instance may not launch a command whose write range meets the first one's. -/
theorem test_launch_rule :
    let s := { State.reset with after := [Inst.reset 0x1000] }
    let t := hostDoes (asmCmd 0 .chacha20Block) s
    (match busWrite 0x1008 4 0x1 t with | .fault .launchRace => true | _ => false) = true ∧
    (match busWrite 0x1008 4 0x30 t with | .next _ => true | _ => false) = true := by decide +kernel

end Sys2Proof.Tests
end

