-- ==== Sys2Proof/Tests/Witnesses.lean ====
section
/-! SUPPORT. For each statement that has hypotheses, a concrete state and operands that meet them all, clause by clause, at
a boundary of their range where they have one. -/

namespace Sys2Proof.Tests

open Sys2Proof.Machine

/-- A platform with 256 addresses, the lower half of them ordinary memory. -/
def small : State := { State.reset with params := { paW := 8, ordinary := [⟨0, 128⟩] } }

/-- SRC, DST, LEN, AAD and AADLEN set on the small platform. -/
def ops (a d l b bl : Nat) : State := withAad b bl (withRanges a d l small)

/-- The small platform with the command word pending. -/
def busyWith (w : Word) : State := small.setCore (ringDoorbell w small.core)

/-- Two instances, the second with CHACHA20_BLOCK pending at DST = 0. -/
def two : State := { small with after := [ringDoorbell 1 (Inst.reset 0x1000)] }

/-- The small platform with its reset input asserted. -/
def heldSmall : State := assertReset small

/-- The small platform with a host that has the statement next, between two labels 1, and variable 0 set to 1. -/
def hosted (st : HostStmt) : State :=
  { small with host := { prog := [.label 1, st, .label 1], pos := 1, vars := [(0, 1)] }, turns := [.host] }

theorem after_eq (i : Instr) (s : State) : exec i s = .next (after i s) := by
  obtain ⟨t, h, -⟩ := exec_next i s
  rw [after, h]

/-! ### Steps -/

theorem witness_StepRunsThePendingCommand :
    (({ two with turns := [] } : State).focus 1 = some { two with before := [two.core], core := ringDoorbell 1 (Inst.reset 0x1000), after := [] }) ∧
    ((busyWith 0x30).focus 0 = some (busyWith 0x30) ∧ (busyWith 0x30).core.busy = true ∧
      decode (busyWith 0x30).core.cmd = .ok .zeroize) ∧
    ((busyWith 0x31).focus 0 = some (busyWith 0x31) ∧ (busyWith 0x31).core.busy = true ∧
      ∀ i, (busyWith 0x31).core.cmd ≠ encode i) ∧
    (small.focus 0 = some small ∧ small.core.busy = false) := by
  refine ⟨rfl, ⟨rfl, rfl, rfl⟩, ⟨rfl, rfl, fun i => by cases i <;> decide⟩, rfl, rfl⟩

/-- Every kind of turn may be next; the last instance there is and the first there is not; the host past its end. -/
theorem witness_StepRunsThePendingCommand_turns :
    (∀ t : Turn, ({ two with turns := [t] } : State).turns = t :: []) ∧ 1 < two.insts.length ∧ two.insts.length ≤ 2 ∧
      small.host.prog.length ≤ small.host.pos := ⟨fun _ => rfl, by decide, by decide, Nat.le_refl 0⟩

/-- Every kind of statement may be the host's next; BNZ not taken, taken to the first of two labels, and to none. -/
theorem witness_StepRunsThePendingCommand_host :
    (∀ st, (hosted st).turns = .host :: [] ∧ (hosted st).host.prog[(hosted st).host.pos]? = some st) ∧
    getVar (hosted (.bnz 0 2 1)).host 0 &&& 2 = 0 ∧
    (getVar (hosted (.bnz 0 1 1)).host 0 &&& 1 ≠ 0 ∧ (hosted (.bnz 0 1 1)).host.prog[0]? = some (.label 1) ∧
      ∀ m, m < 0 → (hosted (.bnz 0 1 1)).host.prog[m]? ≠ some (.label 1)) ∧
    (getVar (hosted (.bnz 0 1 2)).host 0 &&& 1 ≠ 0 ∧ .label 2 ∉ (hosted (.bnz 0 1 2)).host.prog) :=
  ⟨fun _ => ⟨rfl, rfl⟩, by decide, ⟨by decide, by decide, fun m h => absurd h (Nat.not_lt_zero m)⟩, by decide, by decide⟩

theorem witness_UnscheduledStepRunsThePendingCommand :
    ((busyWith 0x30).turns = [] ∧ (busyWith 0x30).core.busy = true ∧ decode (busyWith 0x30).core.cmd = .ok .zeroize) ∧
    (small.turns = [] ∧ (∀ c ∈ small.insts, c.busy = false) ∧ small.host.prog.length ≤ small.host.pos) :=
  ⟨⟨rfl, rfl, rfl⟩, rfl, by simp [State.insts, small, State.reset, Inst.reset], Nat.le_refl 0⟩

theorem witness_EveryEngineStepCompletes : (busyWith 0x20).core.busy = true := rfl

theorem witness_EngineTurnChangesNoOtherInstance :
    ∃ t, ({ two with turns := [.engine 1] } : State).turns = .engine 1 :: [] ∧
      step { two with turns := [.engine 1] } = .next t :=
  ⟨_, rfl, after_eq .chacha20Block _⟩

/-! ### The commands, clause by clause -/

theorem witness_Chacha20BlockRunsItsRule :
    let s (d : Nat) := withCounter 0xFFFFFFFF false (ops 0 d 0 0 0)
    2 ^ 32 < ctr33 (withCounter 0 true small).core + 1 ∧
    (ctr33 (s 193).core + 1 ≤ 2 ^ 32 ∧ ¬RangeOk (s 193).params (r64 (s 193).core.dst) 64) ∧
    (ctr33 (s 65).core + 1 ≤ 2 ^ 32 ∧ RangeOk (s 65).params (r64 (s 65).core.dst) 64 ∧
      ¬AllAdmitted (s 65).params (r64 (s 65).core.dst) 64) ∧
    (ctr33 (s 64).core + 1 ≤ 2 ^ 32 ∧ RangeOk (s 64).params (r64 (s 64).core.dst) 64 ∧
      AllAdmitted (s 64).params (r64 (s 64).core.dst) 64) := by
  simp only [← rangeOk_iff, ← allAdmitted_iff]
  decide

theorem witness_Chacha20XorRunsItsRule :
    let s (a d l : Nat) := withCounter 0xFFFFFFFF false (ops a d l 0 0)
    let ctrOk (s : State) := ctr33 s.core + (r64 s.core.len + 63) / 64 ≤ 2 ^ 32
    let rs (s : State) := RangeOk s.params (r64 s.core.src) (r64 s.core.len)
    let rd (s : State) := RangeOk s.params (r64 s.core.dst) (r64 s.core.len)
    let ap (s : State) := r64 s.core.src = r64 s.core.dst ∨
      Apart (r64 s.core.src) (r64 s.core.len) (r64 s.core.dst) (r64 s.core.len)
    let adS (s : State) := AllAdmitted s.params (r64 s.core.src) (r64 s.core.len)
    let adD (s : State) := AllAdmitted s.params (r64 s.core.dst) (r64 s.core.len)
    ¬ctrOk (s 0 64 65) ∧
    (ctrOk (s 0 193 64) ∧ ¬(rs (s 0 193 64) ∧ rd (s 0 193 64))) ∧
    (ctrOk (s 0 63 64) ∧ rs (s 0 63 64) ∧ rd (s 0 63 64) ∧ ¬ap (s 0 63 64)) ∧
    (ctrOk (s 0 65 64) ∧ rs (s 0 65 64) ∧ rd (s 0 65 64) ∧ ap (s 0 65 64) ∧
      ¬(adS (s 0 65 64) ∧ adD (s 0 65 64))) ∧
    (ctrOk (s 0 64 64) ∧ rs (s 0 64 64) ∧ rd (s 0 64 64) ∧ ap (s 0 64 64) ∧ adS (s 0 64 64) ∧ adD (s 0 64 64)) := by
  simp only [← rangeOk_iff, ← allAdmitted_iff, ← apart_iff]
  decide

/-- The small platform with an open context. -/
def opened (a l : Nat) : State := (ops a 0 l 0 0).setCtx (openCtx [])

theorem witness_Poly1305UpdateRunsItsRule :
    let s := opened
    small.core.ctx.valid = false ∧
    ((s 255 2).core.ctx.valid = true ∧ ¬RangeOk (s 255 2).params (r64 (s 255 2).core.src) (r64 (s 255 2).core.len)) ∧
    ((s 127 2).core.ctx.valid = true ∧ RangeOk (s 127 2).params (r64 (s 127 2).core.src) (r64 (s 127 2).core.len) ∧
      ¬AllAdmitted (s 127 2).params (r64 (s 127 2).core.src) (r64 (s 127 2).core.len)) ∧
    ((s 127 1).core.ctx.valid = true ∧ RangeOk (s 127 1).params (r64 (s 127 1).core.src) (r64 (s 127 1).core.len) ∧
      AllAdmitted (s 127 1).params (r64 (s 127 1).core.src) (r64 (s 127 1).core.len)) := by
  simp only [← rangeOk_iff, ← allAdmitted_iff]
  decide

theorem witness_Poly1305FinishRunsItsRule :
    small.core.ctx.valid = false ∧ (opened 0 0).core.ctx.valid = true := ⟨rfl, rfl⟩

theorem witness_Poly1305AuthRunsItsRule :
    let s (a l : Nat) := ops a 0 l 0 0
    ¬RangeOk (s 255 2).params (r64 (s 255 2).core.src) (r64 (s 255 2).core.len) ∧
    (RangeOk (s 127 2).params (r64 (s 127 2).core.src) (r64 (s 127 2).core.len) ∧
      ¬AllAdmitted (s 127 2).params (r64 (s 127 2).core.src) (r64 (s 127 2).core.len)) ∧
    (RangeOk (s 127 1).params (r64 (s 127 1).core.src) (r64 (s 127 1).core.len) ∧
      AllAdmitted (s 127 1).params (r64 (s 127 1).core.src) (r64 (s 127 1).core.len)) := by
  simp only [← rangeOk_iff, ← allAdmitted_iff]
  decide

/-- The hypotheses of the AEAD statements, for a write range of `w` bytes. -/
def rangesOk (w : Nat) (s : State) : Prop :=
  RangeOk s.params (r64 s.core.src) (r64 s.core.len) ∧ RangeOk s.params (r64 s.core.dst) w ∧
    RangeOk s.params (r64 s.core.aad) (r64 s.core.aadlen)

def rangesApart (w : Nat) (s : State) : Prop :=
  (r64 s.core.src = r64 s.core.dst ∨ Apart (r64 s.core.src) (r64 s.core.len) (r64 s.core.dst) w) ∧
    Apart (r64 s.core.aad) (r64 s.core.aadlen) (r64 s.core.dst) w

def rangesReadable (s : State) : Prop :=
  AllAdmitted s.params (r64 s.core.src) (r64 s.core.len) ∧ AllAdmitted s.params (r64 s.core.aad) (r64 s.core.aadlen)

theorem witness_AeadEncryptRunsItsRule :
    let big := withRanges 0 0 (2 ^ 38 - 63) small
    let s (a d l b bl : Nat) := ops a d l b bl
    let adm (w : Nat) (s : State) := rangesReadable s ∧ AllAdmitted s.params (r64 s.core.dst) w
    2 ^ 38 - 64 < r64 big.core.len ∧
    (r64 (s 0 240 1 0 0).core.len ≤ 2 ^ 38 - 64 ∧ ¬rangesOk 17 (s 0 240 1 0 0)) ∧
    (r64 (s 0 16 1 32 1).core.len ≤ 2 ^ 38 - 64 ∧ rangesOk 17 (s 0 16 1 32 1) ∧ ¬rangesApart 17 (s 0 16 1 32 1)) ∧
    (r64 (s 0 112 1 32 1).core.len ≤ 2 ^ 38 - 64 ∧ rangesOk 17 (s 0 112 1 32 1) ∧ rangesApart 17 (s 0 112 1 32 1) ∧
      ¬adm 17 (s 0 112 1 32 1)) ∧
    (r64 (s 15 16 1 33 1).core.len ≤ 2 ^ 38 - 64 ∧ rangesOk 17 (s 15 16 1 33 1) ∧ rangesApart 17 (s 15 16 1 33 1) ∧
      adm 17 (s 15 16 1 33 1)) := by
  simp only [rangesOk, rangesApart, rangesReadable, ← rangeOk_iff, ← allAdmitted_iff, ← apart_iff]
  decide

/-- The tag AEAD_DECRYPT computes. -/
def computedTag (s : State) : List Byte :=
  poly1305 ((chachaBlock (keyBytes s.core) (nonceBytes s.core) 0).take 32)
    (macData (readBytes s.mem (r64 s.core.aad) (r64 s.core.aadlen)) (readBytes s.mem (r64 s.core.src) (r64 s.core.len)))

theorem tagged_tag (s : State) : tagBytes (s.setTag (computedTag s)).core = computedTag (s.setTag (computedTag s)) :=
  flatMap_ser32_tagWords _ (poly1305_length _ _)

theorem witness_AeadDecryptRunsItsRule :
    let big := withRanges 0 0 (2 ^ 38 - 63) small
    let s (a d l b bl : Nat) := (ops a d l b bl).setTag (computedTag (ops a d l b bl))
    2 ^ 38 - 64 < r64 big.core.len ∧
    (r64 (s 0 255 2 0 0).core.len ≤ 2 ^ 38 - 64 ∧ ¬rangesOk 2 (s 0 255 2 0 0)) ∧
    (r64 (s 0 1 2 0 0).core.len ≤ 2 ^ 38 - 64 ∧ rangesOk 2 (s 0 1 2 0 0) ∧ ¬rangesApart 2 (s 0 1 2 0 0)) ∧
    (r64 (s 127 0 2 0 0).core.len ≤ 2 ^ 38 - 64 ∧ rangesOk 2 (s 127 0 2 0 0) ∧ rangesApart 2 (s 127 0 2 0 0) ∧
      ¬rangesReadable (s 127 0 2 0 0)) ∧
    (r64 (s 0 127 2 0 0).core.len ≤ 2 ^ 38 - 64 ∧ rangesOk 2 (s 0 127 2 0 0) ∧ rangesApart 2 (s 0 127 2 0 0) ∧
      rangesReadable (s 0 127 2 0 0) ∧ tagBytes (s 0 127 2 0 0).core = computedTag (s 0 127 2 0 0) ∧
      ¬AllAdmitted (s 0 127 2 0 0).params (r64 (s 0 127 2 0 0).core.dst) (r64 (s 0 127 2 0 0).core.len)) ∧
    (r64 (s 0 126 2 2 1).core.len ≤ 2 ^ 38 - 64 ∧ rangesOk 2 (s 0 126 2 2 1) ∧ rangesApart 2 (s 0 126 2 2 1) ∧
      rangesReadable (s 0 126 2 2 1) ∧ tagBytes (s 0 126 2 2 1).core = computedTag (s 0 126 2 2 1) ∧
      AllAdmitted (s 0 126 2 2 1).params (r64 (s 0 126 2 2 1).core.dst) (r64 (s 0 126 2 2 1).core.len)) := by
  simp only [tagged_tag, rangesOk, rangesApart, rangesReadable, ← rangeOk_iff, ← allAdmitted_iff, ← apart_iff]
  decide

/-- The fifth clause: a received tag that is not the computed one (all zero, at the reset key). -/
theorem witness_AeadDecryptRunsItsRule_authFail :
    r64 small.core.len ≤ 2 ^ 38 - 64 ∧ rangesOk 0 small ∧ rangesApart 0 small ∧ rangesReadable small ∧
      tagBytes small.core ≠ computedTag small := by
  simp only [rangesOk, rangesApart, rangesReadable, ← rangeOk_iff, ← allAdmitted_iff, ← apart_iff]
  decide +kernel

/-! ### What every command keeps -/

/-- For the statements whose one hypothesis is that a command goes on (which registers it writes, which errors it
reports). -/
theorem witness_CommandsWriteOnlyTheirRegisters (i : Instr) : ∃ t, exec i small = .next t := ⟨_, after_eq i small⟩

theorem witness_CommandsReportOnlyTheirErrors :
    exec .chacha20Xor small = .next (after .chacha20Xor small) := after_eq _ _

theorem witness_CommandsWriteOnlyTheirWriteRange :
    exec .chacha20Block (ops 0 65 0 0 0) = .next (after .chacha20Block (ops 0 65 0 0 0)) ∧
      (∀ r ∈ writeRanges .chacha20Block (ops 0 65 0 0 0).core, 64 < r.addr ∨ r.addr + r.len ≤ 64) ∧
      memAdmit (ops 0 65 0 0 0).params 128 = false := ⟨after_eq _ _, by decide, by decide⟩

theorem witness_CommandsReadOnlyTheirReadRanges :
    let s := ops 0 64 1 0 0
    let m : Memory := [(1, 7)]
    m ≠ s.mem ∧ ∀ r ∈ readRanges .chacha20Xor s.core, ∀ x, r.addr ≤ x → x < r.addr + r.len →
      readByte m x = readByte s.mem x := by
  refine ⟨by decide, fun r hr x h1 h2 => ?_⟩
  simp only [readRanges, List.mem_singleton] at hr
  subst hr
  have h3 : x < 1 := h2
  obtain rfl : x = 0 := by omega
  decide

theorem witness_FailuresButBusErrorHaveNoEffect :
    (after .poly1305Finish small).core.errcode = 6 ∧ (after .aeadDecrypt small).core.errcode = 7 := by
  decide +kernel

/-! ### ChaCha20 -/

theorem witness_QuarterRoundIsFourStages :
    let w : Matrix := Vector.replicate 16 0
    (0 : Fin 16) ≠ 5 ∧ (0 : Fin 16) ≠ 10 ∧ (0 : Fin 16) ≠ 15 ∧ (5 : Fin 16) ≠ 10 ∧ (5 : Fin 16) ≠ 15 ∧
      (10 : Fin 16) ≠ 15 ∧ (1 : Fin 16) ≠ 0 ∧ (1 : Fin 16) ≠ 5 ∧ (1 : Fin 16) ≠ 10 ∧ (1 : Fin 16) ≠ 15 ∧
      w[(0 : Fin 16)] = 0 ∧ w[(5 : Fin 16)] = 0 ∧ w[(10 : Fin 16)] = 0 ∧ w[(15 : Fin 16)] = 0 := by decide

theorem witness_DisjointQuarterRoundsCommute : ([0, 4, 8, 12, 3, 7, 11, 15] : List (Fin 16)).Nodup := by decide

theorem witness_XorStreamIsBytewise : 64 < (List.replicate 65 (0 : Byte)).length := by decide

theorem witness_CounterNeverWraps :
    let s := withCounter 0xFFFFFFFF false (ops 0 64 64 0 0)
    let f := withCounter 0xFFFFFFFF false (ops 0 64 65 0 0)
    (after .chacha20Xor s).core.errcode = 0 ∧ (after .chacha20Xor s).core.ctrExh = true ∧
      (after .chacha20Xor f).core.errcode ≠ 0 := by decide +kernel

theorem witness_Chacha20XorTwiceRestoresTheInput :
    let s := withCounter 0xFFFFFFFF false (ops 0 63 1 0 0)
    let d2 : RegPair := ⟨127, 0⟩
    let l := r64 s.core.len
    exec .chacha20Xor s = .next (after .chacha20Xor s) ∧ (after .chacha20Xor s).core.errcode = 0 ∧
      RangeOk s.params (r64 d2) l ∧ (r64 s.core.dst = r64 d2 ∨ Apart (r64 s.core.dst) l (r64 d2) l) ∧
      AllAdmitted s.params (r64 d2) l := by
  refine ⟨after_eq _ _, ?_⟩
  simp only [← rangeOk_iff, ← allAdmitted_iff, ← apart_iff]
  decide +kernel

theorem witness_Chacha20XorChainsAtWholeBlocks :
    let s := withCounter 0xFFFFFFFE false (ops 0 0 65 0 0)
    let len1 : RegPair := ⟨64, 0⟩
    let at64 : RegPair := ⟨64, 0⟩
    let s1 := s.setCore { s.core with len := len1 }
    64 ∣ r64 len1 ∧ r64 len1 + r64 ⟨1, 0⟩ = r64 s.core.len ∧ r64 at64 = r64 s.core.src + r64 len1 ∧
      r64 at64 = r64 s.core.dst + r64 len1 ∧ exec .chacha20Xor s = .next (after .chacha20Xor s) ∧
      (after .chacha20Xor s).core.errcode = 0 ∧ exec .chacha20Xor s1 = .next (after .chacha20Xor s1) := by
  refine ⟨?_, ?_, ?_, ?_, after_eq _ _, ?_, after_eq _ _⟩ <;> decide +kernel

/-! ### Poly1305 -/

theorem witness_ClampForcesItsBitsToZero : 127 < 128 := by decide

theorem witness_BlocksCutTheMessage :
    let b := List.replicate 16 (0xff : Byte)
    b ∈ polyBlocks (b ++ [0]) ∧ b ∈ (polyBlocks (b ++ [0])).dropLast ∧ b.length ≤ 16 := by decide

theorem witness_Poly1305CornerTags :
    keyR (List.replicate 32 0) = 0 ∧ { PolyCtx.closed with acc := 2 ^ 130 - 6 }.acc < 2 ^ 130 - 5 := by decide

theorem witness_SharedDatapathClosesTheContext :
    (after .poly1305Auth (opened 255 2)).core.errcode = 4 ∧ (after .poly1305Auth (opened 127 2)).core.errcode = 8 ∧
      (after .aeadEncrypt (withRanges 0 0 (2 ^ 38 - 63) (opened 0 0))).core.errcode = 3 ∧
      (after .aeadDecrypt (withRanges 0 1 2 (opened 0 0))).core.errcode = 5 ∧
      (after .zeroize (opened 0 0)).core.errcode = 0 := by decide +kernel

/-! ### AEAD -/

theorem witness_AeadLengthLimitIsExact :
    (after .aeadEncrypt (withRanges 0 0 (2 ^ 38 - 63) State.reset)).core.errcode = 3 ∧
      (after .aeadDecrypt (withRanges 0 1 (2 ^ 38 - 64) State.reset)).core.errcode = 5 := by decide +kernel

theorem witness_DecryptionFailsClosed :
    (exec .aeadDecrypt aeadReceived = .next (after .aeadDecrypt aeadReceived) ∧
      (after .aeadDecrypt aeadReceived).mem ≠ aeadReceived.mem) ∧
    (exec .aeadDecrypt small = .next (after .aeadDecrypt small) ∧ (after .aeadDecrypt small).core.errcode = 7) := by
  refine ⟨⟨after_eq _ _, fun h => ?_⟩, after_eq _ _, witness_FailuresButBusErrorHaveNoEffect.2⟩
  have h1 := test_aeadDecrypt_p3.1
  rw [State.memRead, h] at h1
  exact absurd h1 (by decide +kernel)

/-- A read range that is not admitted. -/
theorem witness_DecryptionFailsClosed_range :
    exec .aeadDecrypt (ops 127 0 2 0 0) = .next (after .aeadDecrypt (ops 127 0 2 0 0)) ∧
      ¬rangesReadable (ops 127 0 2 0 0) := by
  refine ⟨after_eq _ _, ?_⟩
  simp only [rangesReadable, ← allAdmitted_iff]
  decide

theorem witness_AeadRoundTrip :
    let s := ops 15 16 1 33 1
    let d2 : RegPair := ⟨127, 0⟩
    let l := r64 s.core.len
    exec .aeadEncrypt s = .next (after .aeadEncrypt s) ∧ (after .aeadEncrypt s).core.errcode = 0 ∧
      RangeOk s.params (r64 d2) l ∧ (r64 s.core.dst = r64 d2 ∨ Apart (r64 s.core.dst) l (r64 d2) l) ∧
      Apart (r64 s.core.aad) (r64 s.core.aadlen) (r64 d2) l ∧ AllAdmitted s.params (r64 d2) l := by
  refine ⟨after_eq _ _, ?_⟩
  simp only [← rangeOk_iff, ← allAdmitted_iff, ← apart_iff]
  decide +kernel

theorem witness_AnyOtherTagFailsAuthentication :
    exec .aeadDecrypt aeadReceived = .next (after .aeadDecrypt aeadReceived) ∧
      (after .aeadDecrypt aeadReceived).core.errcode = 0 ∧
      (#v[0x590be11a, 0x6ae2094f, 0xcb2e907e, 0x110660d0] : Vector Word 4) ≠ aeadReceived.core.tag :=
  ⟨after_eq _ _, test_aeadDecrypt_p3.2.1, by decide +kernel⟩

/-! ### Registers and the host -/

theorem witness_InterruptFollowsDoneAndEnable :
    exec .zeroize small = .next (after .zeroize small) ∧ (after .zeroize small).core.done = true ∧
      (0x402 : Word).getLsbD 1 = true := ⟨rfl, rfl, by decide⟩

theorem witness_HostAddressFindsItsInstance :
    (two.focusAddr 0x1FFF).isSome = true ∧ ∃ c ∈ two.insts, c.base ≤ 0x1FFF ∧ 0x1FFF < c.base + 0x1000 :=
  ⟨rfl, two.after[0], by simp [State.insts, two], by decide, by decide⟩

theorem witness_HostReadReturnsTheRegister :
    State.reset.focusAddr 0xFFC = some State.reset ∧ (0xFFC - State.reset.core.base) % 4 = 0 ∧
      ((0x010 ≤ 0x010 ∧ 0x010 ≤ 0x01C) ∧ (0x078 ≤ 0x07C ∧ 0x07C ≤ 0x07C) ∧ 0x090 ≤ 0x090) ∧
      ¬(0xFFC - State.reset.core.base = 0x00C ∧ State.reset.core.busy = false) ∧
      (State.reset.focusAddr 0x00C = some State.reset ∧ 0x00C - State.reset.core.base = 0x00C ∧
        State.reset.core.busy = false) :=
  ⟨rfl, rfl, by decide, by decide, rfl, rfl, rfl⟩

/-- Every clause of the write statement, at the first and last offset it speaks of; BASE is 0. -/
theorem witness_HostWriteReachesItsRegister :
    ∀ a ∈ [0x000, 0x004, 0x00C, 0x010, 0x01C, 0x020, 0x03C, 0x040, 0x048, 0x04C, 0x050, 0x054, 0x058, 0x05C, 0x060,
      0x064, 0x068, 0x06C, 0x070, 0x074, 0x078, 0x07C, 0x080, 0x08C, 0x090, 0xFFC],
      State.reset.focusAddr a = some State.reset ∧ a - State.reset.core.base = a ∧ State.reset.core.held = false := by
  intro a ha
  fin_cases ha <;> exact ⟨rfl, rfl, rfl⟩

/-- The clause about a CORE held in reset. -/
theorem witness_HostWriteReachesItsRegister_held :
    heldSmall.focusAddr 0xFFC = some heldSmall ∧ heldSmall.core.held = true ∧ (0xFFC - heldSmall.core.base) % 4 = 0 :=
  ⟨rfl, rfl, rfl⟩

theorem witness_DoorbellStartsOneCommand :
    (heldSmall.focusAddr 0x008 = some heldSmall ∧ 0x008 - heldSmall.core.base = 0x008 ∧ heldSmall.core.held = true) ∧
    ((busyWith 0x1).focusAddr 0x008 = some (busyWith 0x1) ∧ 0x008 - (busyWith 0x1).core.base = 0x008 ∧
      (busyWith 0x1).core.held = false ∧ (busyWith 0x1).core.busy = true) ∧
    (two.focusAddr 0x008 = some two ∧ two.core.held = false ∧ two.core.busy = false ∧
      ∀ o ∈ two.before ++ two.after, claimsMeet (wordReadRanges 0x30 two.core) (wordWriteRanges 0x30 two.core) o = false) := by
  refine ⟨⟨rfl, rfl, rfl⟩, ⟨rfl, rfl, rfl, rfl⟩, rfl, rfl, rfl, fun o ho => ?_⟩
  obtain rfl : o = ringDoorbell 1 (Inst.reset 0x1000) := by simpa [two, small, State.reset] using ho
  decide

theorem witness_ConflictingLaunchFaults :
    (two.focusAddr 0x008 = some two ∧ two.core.held = false ∧ two.core.busy = false ∧ decode 0x1 = .ok .chacha20Block ∧
      dstRange two.core 64 ∈ writeRanges .chacha20Block two.core ∧
      ∃ o ∈ two.before ++ two.after, ⟨0, 64⟩ ∈ o.claimReads ++ o.claimWrites) ∧
    (two.setCore (ops 63 128 1 0 0).core).focusAddr 0x008 = some (two.setCore (ops 63 128 1 0 0).core) ∧
      (⟨63, 1⟩ : Range) ∈ readRanges .poly1305Auth (ops 63 128 1 0 0).core := by
  refine ⟨⟨rfl, rfl, rfl, rfl, by decide, ringDoorbell 1 (Inst.reset 0x1000), by simp [two], by decide⟩, rfl, by decide⟩

theorem witness_WrongRegisterAccessFaults :
    State.reset.focusAddr 0xFFF = some State.reset ∧ (8 ≠ 4 ∨ (0x00C - State.reset.core.base) % 4 ≠ 0) ∧
      (4 ≠ 4 ∨ (0xFFF - State.reset.core.base) % 4 ≠ 0) := ⟨rfl, by decide, by decide⟩

theorem witness_BusyRuleOnDataMemory :
    let busy (s : State) (a : Nat) := ∃ c ∈ s.insts, ∃ r ∈ c.claimReads ++ c.claimWrites, r.addr ≤ a ∧ a < r.addr + r.len
    memAdmit two.params 63 = true ∧ busy two 63 ∧ memAdmit two.params 64 = true ∧ ¬busy two 64 ∧
      2 ^ two.params.paW ≤ 256 ∧ (128 < 2 ^ two.params.paW ∧ memAdmit two.params 128 = false) ∧
      (255 < 2 ^ two.params.paW ∧ memAdmit two.params 255 = false) := by
  refine ⟨by decide, ⟨ringDoorbell 1 (Inst.reset 0x1000), by simp [State.insts, two], ⟨0, 64⟩, by decide, by decide,
    by decide⟩, by decide, ?_, by decide, by decide, by decide⟩
  decide

theorem witness_ObservedCompletionFreesTheRanges :
    (busyWith 0x1).focusAddr 0x00C = some (busyWith 0x1) ∧ (busyWith 0x1).core.busy = true ∧
      State.reset.focusAddr 0x00C = some State.reset ∧ State.reset.core.busy = false ∧
      (two.focus 1).isSome = true := ⟨rfl, rfl, rfl, rfl, rfl⟩

theorem witness_FrozenWriteAndCompletionInEitherOrder :
    (busyWith 0x30).core.busy = true ∧ (busyWith 0x30).core.held = false ∧ isFrozen (.key 7) = true ∧ (Reg.key 7) ≠ .cmd := by decide

/-! ### Reset and invariants -/

theorem witness_ResetAbandonsThePendingCommand :
    small.core.busy = false ∧ (busyWith 0x1).core.busy = true ∧
      ∀ i, decode (busyWith 0x1).core.cmd = .ok i → ∀ r ∈ writeRanges i (busyWith 0x1).core,
        64 < r.addr ∨ r.addr + r.len ≤ 64 := by
  refine ⟨rfl, rfl, fun i h => ?_⟩
  obtain rfl : Instr.chacha20Block = i := Except.ok.inj h
  decide

theorem witness_PowerUpResetsEveryInstance :
    ({ two with turns := [.powerUp [(127, 1)]] } : State).turns = .powerUp [(127, 1)] :: [] ∧
      Memory.wf [(127, 1)] = true ∧ ∀ cell ∈ ([(127, 1)] : Memory), memAdmit two.params cell.1 = true := by decide

theorem witness_EveryStepKeepsTheInvariant :
    (busyWith 0x1).Inv ∧ ∃ t, step (busyWith 0x1) = .next t := by
  refine ⟨⟨by decide, by decide, fun c hc => ?_, by decide, by decide⟩, _, after_eq .chacha20Block _⟩
  obtain rfl : c = (busyWith 0x1).core := by simpa [State.insts, busyWith, small, State.reset] using hc
  refine ⟨⟨by decide, by decide, by decide, fun _ => by decide⟩, ⟨by decide, by decide, by decide, by decide⟩,
    fun _ => by decide, by unfold Inst.HeldOk; decide⟩

theorem witness_EveryStepKeepsThePlatform : ∃ t, step two = .next t := ⟨_, rfl⟩

theorem witness_EveryStepKeepsLaunchesApart :
    two.LaunchesApart ∧ ∃ t, step two = .next t := by
  refine ⟨by unfold State.LaunchesApart; decide, _, rfl⟩

theorem witness_MemoryIsCanonical : Memory.wf [(0, 1), (1, 255)] = true := by decide

end Sys2Proof.Tests
end

section
/-! A host write of STATUS (10_state.md R41): one equation for a write that acknowledges a completion and one for every
other write; both clear OVERRUN by bit 10. -/

namespace Sys2Proof.Machine

/-- The acknowledging write: bit 1 is set and DONE stands. -/
theorem writeStatus_of_acknowledged {v : Word} {c : Inst} (hack : (v.getLsbD 1 && c.done) = true) :
    writeStatus v c = { c with done := false, errcode := 0, overrun := c.overrun && !v.getLsbD 10 } := by
  simp only [writeStatus, hack, if_true]
  cases v.getLsbD 10 <;> simp

/-- Every other write leaves DONE and the error record alone. -/
theorem writeStatus_of_not_acknowledged {v : Word} {c : Inst} (hack : (v.getLsbD 1 && c.done) = false) :
    writeStatus v c = { c with overrun := c.overrun && !v.getLsbD 10 } := by
  simp only [writeStatus, hack, Bool.false_eq_true, if_false]
  cases v.getLsbD 10 <;> simp

/-- Settles O41, by whether the write acknowledges a completion. -/
theorem statusWriteClearsItsFields : Obligations.StatusWriteClearsItsFields := by
  intro c v
  cases hack : v.getLsbD 1 && c.done with
  | true =>
    obtain ⟨hone, hdone⟩ := Bool.and_eq_true_iff.mp hack
    rw [writeStatus_of_acknowledged hack, hone, hdone]
    rfl
  | false =>
    have hkept : (c.done && !v.getLsbD 1) = c.done := by
      revert hack
      cases v.getLsbD 1 <;> cases c.done <;> decide
    rw [writeStatus_of_not_acknowledged hack, hkept,
      if_neg (by rw [← Bool.and_eq_true_iff, hack]; decide)]

end Sys2Proof.Machine
end

section
/-! The quarter round (40_chacha20.md R113): its stages as updates of one word each, what it fixes, and its inverse. -/

namespace Sys2Proof.Machine

theorem matrix_ext {w v : Matrix} (h : ∀ e : Fin 16, w[e] = v[e]) : w = v := Vector.ext fun i hi => h ⟨i, hi⟩

/-! ### Half a stage: one word updated by another -/

/-- Word `i` replaced by a function of itself and word `j`. -/
def updateWord (f : Word → Word → Word) (i j : Fin 16) (w : Matrix) : Matrix := w.set i (f w[j] w[i])

/-- The addition of a stage. -/
def addWord (y x : Word) : Word := x + y

/-- The xor and the rotation of a stage. -/
def xorRotate (n : Nat) (y x : Word) : Word := (x ^^^ y).rotateLeft n

/-- R113: a quarter round is four stages of two updates each. -/
theorem quarterRound_eq_updates (w : Matrix) (a b c d : Fin 16) :
    quarterRound w a b c d = (updateWord (xorRotate 7) b c ∘ updateWord addWord c d ∘
      updateWord (xorRotate 8) d a ∘ updateWord addWord a b ∘ updateWord (xorRotate 12) b c ∘
      updateWord addWord c d ∘ updateWord (xorRotate 16) d a ∘ updateWord addWord a b) w := rfl

theorem updateWord_get (f : Word → Word → Word) (i j e : Fin 16) (w : Matrix) :
    (updateWord f i j w)[e] = if i = e then f w[j] w[i] else w[e] := matrix_set_get w i e _

theorem updateWord_of_fixed {f : Word → Word → Word} {i j : Fin 16} {w : Matrix} (h : f w[j] w[i] = w[i]) :
    updateWord f i j w = w := by
  refine matrix_ext fun e => ?_
  rw [updateWord_get, h]
  split
  · next he => rw [he]
  · rfl

theorem updateWord_bijective {f : Word → Word → Word} (hf : ∀ y, Function.Bijective (f y)) {i j : Fin 16}
    (hij : i ≠ j) : Function.Bijective (updateWord f i j) := by
  constructor
  · intro w v hwv
    have hread (e : Fin 16) : (updateWord f i j w)[e] = (updateWord f i j v)[e] := by rw [hwv]
    simp only [updateWord_get] at hread
    have hother {e : Fin 16} (he : i ≠ e) : w[e] = v[e] := by simpa only [if_neg he] using hread e
    have hsame : w[i] = v[i] := by
      have h := hread i
      rw [if_pos rfl, if_pos rfl, hother hij] at h
      exact (hf _).injective h
    refine matrix_ext fun e => ?_
    by_cases he : i = e
    · rw [← he, hsame]
    · exact hother he
  · intro v
    obtain ⟨x, hx⟩ := (hf v[j]).surjective v[i]
    refine ⟨v.set i x, matrix_ext fun e => ?_⟩
    rw [updateWord_get, matrix_set_other v hij, matrix_set_get, matrix_set_get, if_pos rfl, hx]
    by_cases he : i = e
    · rw [if_pos he, he]
    · rw [if_neg he, if_neg he]

theorem addWord_bijective (y : Word) : Function.Bijective (addWord y) := (Equiv.addRight y).bijective

theorem rotateRight_rotateLeft (x : Word) {n : Nat} (hn : n < 32) : (x.rotateLeft n).rotateRight n = x := by
  ext i hi
  simp only [BitVec.getElem_rotateRight, BitVec.getElem_rotateLeft, Nat.mod_eq_of_lt hn]
  by_cases h : i < 32 - n
  · simp [h]
  · have hlow : i - (32 - n) < n := by omega
    have hsum : 32 - n + (i - (32 - n)) = i := by omega
    simp [h, hlow, hsum]

theorem rotateLeft_rotateRight (x : Word) {n : Nat} (hn : n < 32) : (x.rotateRight n).rotateLeft n = x := by
  ext i hi
  simp only [BitVec.getElem_rotateRight, BitVec.getElem_rotateLeft, Nat.mod_eq_of_lt hn]
  by_cases h : i < n
  · simp [h]
  · have hlow : i - n < 32 - n := by omega
    have hsum : n + (i - n) = i := by omega
    simp [h, hlow, hsum]

theorem xorRotate_bijective {n : Nat} (hn : n < 32) (y : Word) : Function.Bijective (xorRotate n y) := by
  refine Function.bijective_iff_has_inverse.mpr ⟨fun z => z.rotateRight n ^^^ y, fun x => ?_, fun z => ?_⟩
  · simp only [xorRotate, rotateRight_rotateLeft _ hn, BitVec.xor_assoc, BitVec.xor_self, BitVec.xor_zero]
  · simp only [xorRotate, rotateLeft_rotateRight _ hn, BitVec.xor_assoc, BitVec.xor_self, BitVec.xor_zero]

/-! ### The whole quarter round -/

theorem quarterRound_bijective {a b c d : Fin 16} (hab : a ≠ b) (hda : d ≠ a) (hbc : b ≠ c) (hcd : c ≠ d) :
    Function.Bijective fun v : Matrix => quarterRound v a b c d := by
  have hadd {i j : Fin 16} (h : i ≠ j) := updateWord_bijective addWord_bijective h
  have hxor {n : Nat} (hn : n < 32) {i j : Fin 16} (h : i ≠ j) := updateWord_bijective (xorRotate_bijective hn) h
  simp only [quarterRound_eq_updates]
  exact (hxor (by decide) hbc).comp <| (hadd hcd).comp <| (hxor (by decide) hda).comp <| (hadd hab).comp <|
    (hxor (by decide) hbc).comp <| (hadd hcd).comp <| (hxor (by decide) hda).comp (hadd hab)

theorem quarterRound_of_zero {w : Matrix} {a b c d : Fin 16} (ha : w[a] = 0) (hb : w[b] = 0) (hc : w[c] = 0)
    (hd : w[d] = 0) : quarterRound w a b c d = w := by
  have hadd {i j : Fin 16} (hi : w[i] = 0) (hj : w[j] = 0) : updateWord addWord i j w = w :=
    updateWord_of_fixed (by rw [hi, hj]; decide)
  have hxor (n : Nat) {i j : Fin 16} (hi : w[i] = 0) (hj : w[j] = 0) : updateWord (xorRotate n) i j w = w :=
    updateWord_of_fixed (by rw [hi, hj]; simp [xorRotate, BitVec.rotateLeft_def])
  simp only [quarterRound_eq_updates, Function.comp_apply, hadd ha hb, hadd hc hd, hxor _ hd ha, hxor _ hb hc]

/-- Settles O21: each word read through the eight updates, which are undone one by one. -/
theorem quarterRoundIsFourStages : Obligations.QuarterRoundIsFourStages := by
  intro w a b c d hab hac had hbc hbd hcd
  refine ⟨⟨?_, ?_, ?_, ?_⟩, fun e ha hb hc hd => quarterRound_other w ha.symm hb.symm hc.symm hd.symm,
    quarterRound_of_zero, quarterRound_bijective hab had.symm hbc hcd⟩
  all_goals
    simp only [quarterRound_eq_updates, Function.comp_apply, updateWord_get, addWord, xorRotate, hab, hac, had, hbc,
      hbd, hcd, hab.symm, hac.symm, had.symm, hbc.symm, hbd.symm, hcd.symm, if_true, if_false]

end Sys2Proof.Machine
end

section
/-! The rounds (40_chacha20.md R114 to R117): quarter rounds on disjoint words, in any order. -/

namespace Sys2Proof.Machine

/-- The four words a quarter round works on, in its order. -/
abbrev Quad := Fin 4 → Fin 16

namespace Quad

/-- The quarter round on a quad. -/
def round (w : Matrix) (q : Quad) : Matrix := quarterRound w (q 0) (q 1) (q 2) (q 3)

/-- No word of one quad is a word of the other. -/
def Disjoint (q r : Quad) : Prop := ∀ i j, q i ≠ r j

/-- Column `j` of the matrix (R114). -/
def column (j : Fin 4) : Quad := fun i => Fin.ofNat 16 (4 * i.val + j.val)

/-- The wrapped diagonal that begins at column `j` of row 0 (R115). -/
def diagonal (j : Fin 4) : Quad := fun i => Fin.ofNat 16 (4 * i.val + (j.val + i.val) % 4)

theorem round_vec (w : Matrix) (a b c d : Fin 16) : round w ![a, b, c, d] = quarterRound w a b c d := rfl

theorem round_outside (w : Matrix) {q : Quad} {e : Fin 16} (h : ∀ i, q i ≠ e) : (round w q)[e] = w[e] :=
  quarterRound_other w (h 0) (h 1) (h 2) (h 3)

theorem round_congr {w v : Matrix} {q : Quad} (h : ∀ i, w[q i] = v[q i]) (i : Fin 4) :
    (round w q)[q i] = (round v q)[q i] := by
  refine quarterRound_agree (fun e he => ?_) (q i) ?_
  · simp only [List.mem_cons, List.not_mem_nil, or_false] at he
    rcases he with rfl | rfl | rfl | rfl <;> exact h _
  · fin_cases i <;> simp

theorem disjoint_of_nodup {a b c d e f g h : Fin 16} (hnodup : [a, b, c, d, e, f, g, h].Nodup) :
    Disjoint ![a, b, c, d] ![e, f, g, h] := by
  intro i j
  have happ : (List.ofFn ![a, b, c, d] ++ List.ofFn ![e, f, g, h]).Nodup := by simpa using hnodup
  have hapart := List.disjoint_of_nodup_append happ (List.mem_ofFn.mpr ⟨i, rfl⟩)
  exact fun hij => hapart (List.mem_ofFn.mpr ⟨j, hij.symm⟩)

theorem round_comm (w : Matrix) {q r : Quad} (h : Disjoint q r) : round (round w q) r = round (round w r) q := by
  have hq (i : Fin 4) : ∀ j, r j ≠ q i := fun j => (h i j).symm
  have hr (j : Fin 4) : ∀ i, q i ≠ r j := fun i => h i j
  refine matrix_ext fun e => ?_
  by_cases heq : ∃ i, q i = e
  · obtain ⟨i, rfl⟩ := heq
    rw [round_outside _ (hq i)]
    exact round_congr (fun j => (round_outside w (hq j)).symm) i
  by_cases her : ∃ j, r j = e
  · obtain ⟨j, rfl⟩ := her
    rw [round_outside (round w r) (hr j)]
    exact round_congr (fun i => round_outside w (hr i)) j
  rw [not_exists] at heq her
  simp only [round_outside _ heq, round_outside _ her]

theorem foldl_round_outside (w : Matrix) {qs : List Quad} {e : Fin 16} (h : ∀ q ∈ qs, ∀ i, q i ≠ e) :
    (qs.foldl round w)[e] = w[e] := by
  induction qs generalizing w with
  | nil => rfl
  | cons q qs ih =>
    rw [List.foldl_cons, ih _ fun r hr => h r (List.mem_cons_of_mem _ hr), round_outside w (h q List.mem_cons_self)]

/-- In a run of quarter rounds on disjoint quads, each gives what it gives alone. -/
theorem foldl_round_get (w : Matrix) {qs : List Quad} (hqs : qs.Pairwise Disjoint) {q : Quad} (hq : q ∈ qs)
    (i : Fin 4) : (qs.foldl round w)[q i] = (round w q)[q i] := by
  induction qs generalizing w with
  | nil => cases hq
  | cons r qs ih =>
    obtain ⟨hr, hqs⟩ := List.pairwise_cons.mp hqs
    rw [List.foldl_cons]
    rcases List.mem_cons.mp hq with rfl | hq
    · exact foldl_round_outside _ fun s hs j => (hr s hs i j).symm
    · rw [ih _ hqs hq]
      exact round_congr (fun j => round_outside w fun k => hr q hq k j) i

theorem columns_disjoint : ((List.finRange 4).map column).Pairwise Disjoint := by
  unfold Disjoint
  decide

theorem diagonals_disjoint : ((List.finRange 4).map diagonal).Pairwise Disjoint := by
  unfold Disjoint
  decide

end Quad

/-- R114. -/
theorem columnRound_eq_foldl (w : Matrix) :
    columnRound w = ((List.finRange 4).map Quad.column).foldl Quad.round w := by
  have h : (List.finRange 4).map Quad.column = [![0, 4, 8, 12], ![1, 5, 9, 13], ![2, 6, 10, 14], ![3, 7, 11, 15]] := by
    decide
  simp only [h, List.foldl_cons, List.foldl_nil, Quad.round_vec, columnRound]

/-- R115. -/
theorem diagonalRound_eq_foldl (w : Matrix) :
    diagonalRound w = ((List.finRange 4).map Quad.diagonal).foldl Quad.round w := by
  have h : (List.finRange 4).map Quad.diagonal = [![0, 5, 10, 15], ![1, 6, 11, 12], ![2, 7, 8, 13], ![3, 4, 9, 14]] := by
    decide
  simp only [h, List.foldl_cons, List.foldl_nil, Quad.round_vec, diagonalRound]

theorem doubleRounds_eq_iterate (n : Nat) (w : Matrix) :
    doubleRounds n w = (fun v => diagonalRound (columnRound v))^[n] w := by
  induction n generalizing w with
  | zero => rfl
  | succ n ih => rw [doubleRounds, ih, Function.iterate_succ_apply]

/-- Settles O22: quarter rounds on disjoint quads commute, and each round is a run of four of them. -/
theorem disjointQuarterRoundsCommute : Obligations.DisjointQuarterRoundsCommute := by
  refine ⟨fun w a b c d e f g h hnodup => ?_, fun w j row => ⟨?_, ?_⟩, doubleRounds_eq_iterate 10⟩
  · have hdisj : Quad.Disjoint ![a, b, c, d] ![e, f, g, h] := Quad.disjoint_of_nodup hnodup
    simpa only [Quad.round_vec] using Quad.round_comm w hdisj
  · rw [columnRound_eq_foldl]
    exact Quad.foldl_round_get w Quad.columns_disjoint (List.mem_map_of_mem (List.mem_finRange j)) row
  · rw [diagonalRound_eq_foldl]
    exact Quad.foldl_round_get w Quad.diagonals_disjoint (List.mem_map_of_mem (List.mem_finRange j)) row

end Sys2Proof.Machine
end

section
/-! The block function and the keystream (40_chacha20.md R112, R118, R119, R124), read word by word and byte by byte. -/

namespace Sys2Proof.Machine

/-! ### The initial matrix and the block (R112, R118) -/

theorem chachaInit_key (k n : List Byte) (b : Word) (i : Fin 8) :
    (chachaInit k n b)[4 + i.val] = le32At k i := by
  fin_cases i <;> rfl

theorem chachaInit_nonce (k n : List Byte) (b : Word) (j : Fin 3) :
    (chachaInit k n b)[13 + j.val] = le32At n j := by
  fin_cases j <;> rfl

/-- The words of a register bank's byte string are the registers (20_memory.md R68). -/
theorem le32At_flatMap_ser32_vector {n : Nat} (ws : Vector Word n) (i : Fin n) :
    le32At (ws.toList.flatMap ser32) i = ws[i] := by
  rw [le32At_flatMap_ser32 _ _ (by simp)]
  simp

/-- Settles O23: the matrix's rows as written, its key and nonce words read back from the registers' bytes. -/
theorem initialMatrixIsTheRegisters : Obligations.InitialMatrixIsTheRegisters := by
  refine ⟨fun k n b => ⟨rfl, rfl, rfl, rfl, chachaInit_key k n b, rfl, chachaInit_nonce k n b⟩,
    fun c b => ⟨fun i => ?_, fun j => ?_⟩⟩
  · exact (chachaInit_key _ _ b i).trans (le32At_flatMap_ser32_vector c.key i)
  · exact (chachaInit_nonce _ _ b j).trans (le32At_flatMap_ser32_vector c.nonce j)

/-- Settles O24: a block is the byte string of its sixteen sums. -/
theorem blockAddsTheInitialMatrix : Obligations.BlockAddsTheInitialMatrix := by
  refine fun k n c => ⟨chachaBlock_length k n c, fun i => ?_⟩
  rw [chachaBlock, le32At_flatMap_ser32_vector]
  simp

/-! ### The keystream (R119) -/

/-- Byte `i` of a run of blocks stands in block `i / 64`. -/
theorem blockRun_getD (k n : List Byte) {c0 nb i : Nat} (hi : i < 64 * nb) :
    (blockRun k n c0 nb).getD i 0 = (chachaBlock k n (BitVec.ofNat 32 (c0 + i / 64))).getD (i % 64) 0 := by
  induction nb generalizing c0 i with
  | zero => omega
  | succ nb ih =>
    rw [blockRun]
    by_cases hfirst : i < 64
    · rw [List.getD_append _ _ _ _ (by simpa using hfirst), Nat.div_eq_of_lt hfirst, Nat.mod_eq_of_lt hfirst,
        Nat.add_zero]
    · have hdiv : c0 + 1 + (i - 64) / 64 = c0 + i / 64 := by omega
      have hmod : (i - 64) % 64 = i % 64 := by omega
      rw [List.getD_append_right _ _ _ _ (by simpa using hfirst), chachaBlock_length, ih (by omega), hdiv, hmod]

theorem keystream_getD (k n : List Byte) {c0 len i : Nat} (hi : i < len) :
    (keystream k n c0 len).getD i 0 = (chachaBlock k n (BitVec.ofNat 32 (c0 + i / 64))).getD (i % 64) 0 := by
  rw [← blockRun_getD k n (hi.trans_le (blockCount_covers len)), keystream]
  simp [List.getD_eq_getElem?_getD, hi]

theorem xorStream_getD (k n : List Byte) (c0 : Nat) {p : List Byte} {i : Nat} (hi : i < p.length) :
    (xorStream k n c0 p).getD i 0 = p.getD i 0 ^^^ (keystream k n c0 p.length).getD i 0 := by
  have hks : i < (keystream k n c0 p.length).length := by simpa using hi
  have hxs : i < (xorStream k n c0 p).length := by simpa using hi
  rw [List.getD_eq_getElem _ _ hxs, List.getD_eq_getElem _ _ hi, List.getD_eq_getElem _ _ hks,
    xorStream_getElem k n c0 p i hxs hi hks]

/-- Settles O25: byte `i` of the keystream is byte `i mod 64` of its block. -/
theorem xorStreamIsBytewise : Obligations.XorStreamIsBytewise := by
  refine fun k n c0 p => ⟨xorStream_length k n c0 p, fun i hi => ?_⟩
  rw [xorStream_getD k n c0 hi, keystream_getD k n hi]

/-- R124: XorStream is its own inverse, since the two keystreams are the same. -/
theorem xorStream_xorStream (k n : List Byte) (c0 : Nat) (p : List Byte) :
    xorStream k n c0 (xorStream k n c0 p) = p := by
  refine List.ext_getElem (by simp) fun i h1 h2 => ?_
  rw [xorStream_getElem _ _ _ _ _ h1 (by simpa using h2) (by simpa using h2),
    xorStream_getElem _ _ _ _ _ (by simpa using h2) h2 (by simpa using h2)]
  simp only [xorStream_length, BitVec.xor_assoc, BitVec.xor_self, BitVec.xor_zero]

end Sys2Proof.Machine
end

section
/-! The commands CHACHA20_BLOCK and CHACHA20_XOR (40_chacha20.md R121, R122, R124): each branch of their rules in the
statements' words, and what an accepted CHACHA20_XOR leaves. -/

namespace Sys2Proof.Machine

/-! ### CHACHA20_BLOCK (R121) -/

/-- Settles O6, one branch of the rule for each clause. -/
theorem chacha20BlockRunsItsRule : Obligations.Chacha20BlockRunsItsRule := by
  intro s
  refine ⟨fun hctr => ?_, fun hctr hrange => ?_, fun hctr hrange hadm => ?_, fun hctr hrange hadm => ?_⟩ <;>
    rw [exec_chacha20Block]
  · rw [chacha20Block_counterRange s hctr, complete_eq]
    rfl
  · rw [chacha20Block_address s hctr (not_rangeOk hrange), complete_eq]
    rfl
  · rw [chacha20Block_busError s hctr ((rangeOk_iff ..).mpr hrange) (not_allAdmitted hadm), scribble_complete]
    exact ⟨_, _, rfl, freeOnlyIn_freeBytes _ _ _ _ _⟩
  · rw [chacha20Block_ok s hctr ((rangeOk_iff ..).mpr hrange) ((allAdmitted_iff ..).mpr hadm), memWrite_complete]
    exact ⟨_, rfl, wrote_writeBytes _ _ _⟩

/-! ### CHACHA20_XOR (R122) -/

theorem bothInRange_iff (p : Params) (a n b k : Nat) :
    (inRange p a n && inRange p b k) = true ↔ RangeOk p a n ∧ RangeOk p b k := by
  rw [Bool.and_eq_true, rangeOk_iff, rangeOk_iff]

theorem bothAdmitted_iff (p : Params) (a n b k : Nat) :
    (admitted p a n && admitted p b k) = true ↔ AllAdmitted p a n ∧ AllAdmitted p b k := by
  rw [Bool.and_eq_true, allAdmitted_iff, allAdmitted_iff]

theorem sameOrDisjoint_iff (a n b k : Nat) :
    (a == b || disjoint ⟨a, n⟩ ⟨b, k⟩) = true ↔ a = b ∨ Apart a n b k := by
  rw [Bool.or_eq_true, beq_iff_eq, apart_iff]

/-- CHACHA20_XOR's four checks, in their order. -/
structure Chacha20XorAccepts (s : State) : Prop where
  counter  : ctr33 s.core + blockCount (r64 s.core.len) ≤ 2 ^ 32
  inRange  : RangeOk s.params (r64 s.core.src) (r64 s.core.len) ∧ RangeOk s.params (r64 s.core.dst) (r64 s.core.len)
  apart    : r64 s.core.src = r64 s.core.dst ∨
    Apart (r64 s.core.src) (r64 s.core.len) (r64 s.core.dst) (r64 s.core.len)
  admitted : AllAdmitted s.params (r64 s.core.src) (r64 s.core.len) ∧
    AllAdmitted s.params (r64 s.core.dst) (r64 s.core.len)

/-- The bytes a CHACHA20_XOR writes. -/
def chacha20XorOutput (s : State) : List Byte :=
  xorStream (keyBytes s.core) (nonceBytes s.core) (ctr33 s.core) (readBytes s.mem (r64 s.core.src) (r64 s.core.len))

/-- The state a CHACHA20_XOR leaves when its checks pass. -/
def chacha20XorDone (s : State) : State :=
  { s with
    mem := writeBytes s.mem (r64 s.core.dst) (chacha20XorOutput s)
    core := { s.core.ended 0 with
      counter := BitVec.ofNat 32 (ctr33 s.core + blockCount (r64 s.core.len))
      ctrExh := decide (ctr33 s.core + blockCount (r64 s.core.len) = 2 ^ 32) } }

@[simp] theorem chacha20XorOutput_length (s : State) : (chacha20XorOutput s).length = r64 s.core.len := by
  simp [chacha20XorOutput]

theorem exec_chacha20Xor_accepted {s : State} (h : Chacha20XorAccepts s) :
    exec .chacha20Xor s = .next (chacha20XorDone s) := by
  obtain ⟨hctr, hrange, hapart, hadm⟩ := h
  rw [exec_chacha20Xor, chacha20Xor_ok s hctr ((bothInRange_iff ..).mpr hrange) ((sameOrDisjoint_iff ..).mpr hapart)
    ((bothAdmitted_iff ..).mpr hadm), memWrite_setCtr33_complete _ _ _ hctr]
  rfl

/-- Only an accepted CHACHA20_XOR ends with error number 0. -/
theorem chacha20Xor_accepts_of_success {s t : State} (h : exec .chacha20Xor s = .next t) (h0 : t.core.errcode = 0) :
    Chacha20XorAccepts s := by
  obtain rfl := Host.Outcome.next.inj h
  have hfail (u : State) (e : ErrCode) (he : errNumber e ≠ 0) (hu : chacha20XorRule s = u.complete e) : False := by
    rw [hu] at h0
    exact he h0
  rcases chacha20Xor_cases s with ⟨-, hu⟩ | ⟨-, -, hu⟩ | ⟨-, -, -, hu⟩ | ⟨-, -, -, -, hu⟩ |
    ⟨hctr, hrange, hapart, hadm, -⟩
  · exact (hfail _ _ (by decide) hu).elim
  · exact (hfail _ _ (by decide) hu).elim
  · exact (hfail _ _ (by decide) hu).elim
  · exact (hfail _ _ (by decide) hu).elim
  · exact ⟨hctr, (bothInRange_iff ..).mp hrange, (sameOrDisjoint_iff ..).mp hapart, (bothAdmitted_iff ..).mp hadm⟩

/-- Settles O7, one branch of the rule for each clause. -/
theorem chacha20XorRunsItsRule : Obligations.Chacha20XorRunsItsRule := by
  intro s
  refine ⟨fun hctr => ?_, fun hctr hrange => ?_, fun hctr hsrc hdst hapart => ?_,
    fun hctr hsrc hdst hapart hadm => ?_, fun hctr hsrc hdst hapart hasrc hadst => ?_⟩
  · rw [exec_chacha20Xor, chacha20Xor_counterRange s hctr, complete_eq]
    rfl
  · rw [← bothInRange_iff, Bool.not_eq_true] at hrange
    rw [exec_chacha20Xor, chacha20Xor_address s hctr hrange, complete_eq]
    rfl
  · rw [← sameOrDisjoint_iff, Bool.not_eq_true] at hapart
    rw [exec_chacha20Xor, chacha20Xor_overlap s hctr ((bothInRange_iff ..).mpr ⟨hsrc, hdst⟩) hapart, complete_eq]
    rfl
  · rw [← bothAdmitted_iff, Bool.not_eq_true] at hadm
    rw [exec_chacha20Xor, chacha20Xor_busError s hctr ((bothInRange_iff ..).mpr ⟨hsrc, hdst⟩)
      ((sameOrDisjoint_iff ..).mpr hapart) hadm, scribble_complete]
    exact ⟨_, _, rfl, freeOnlyIn_freeBytes _ _ _ _ _⟩
  · exact ⟨_, exec_chacha20Xor_accepted ⟨hctr, ⟨hsrc, hdst⟩, hapart, ⟨hasrc, hadst⟩⟩, wrote_writeBytes _ _ _⟩

/-! ### The same bytes twice (R124) -/

/-- The output read back from where it was written. -/
theorem readBytes_chacha20XorDone (s : State) :
    readBytes (chacha20XorDone s).mem (r64 s.core.dst) (r64 s.core.len) = chacha20XorOutput s := by
  rw [← chacha20XorOutput_length s]
  exact readBytes_writeBytes_same ..

/-- An accepted CHACHA20_XOR starts at COUNTER itself, unless it has no block: CTR_EXH leaves room for none. -/
theorem ctr33_of_accepts {s : State} (h : Chacha20XorAccepts s) :
    ctr33 s.core = s.core.counter.toNat ∨ r64 s.core.len = 0 := by
  have hctr := h.counter
  unfold ctr33 blockCount at *
  cases hexh : s.core.ctrExh
  · exact .inl (by simp)
  · rw [hexh, Bool.toNat_true] at hctr
    exact .inr (by omega)

/-- After a CHACHA20_XOR: COUNTER written with its old value, the output as the input, and a place to write. -/
def secondXor (s : State) (place : RegPair) : State :=
  (chacha20XorDone s).setCore (storeReg .counter s.core.counter
    { (chacha20XorDone s).core with src := s.core.dst, dst := place })

theorem ctr33_secondXor (s : State) (place : RegPair) : ctr33 (secondXor s place).core = s.core.counter.toNat := by
  simp [secondXor, storeReg, ctr33]

theorem secondXor_accepts {s : State} (h : Chacha20XorAccepts s) {place : RegPair}
    (hrange : RangeOk s.params (r64 place) (r64 s.core.len))
    (hapart : r64 s.core.dst = r64 place ∨ Apart (r64 s.core.dst) (r64 s.core.len) (r64 place) (r64 s.core.len))
    (hadm : AllAdmitted s.params (r64 place) (r64 s.core.len)) : Chacha20XorAccepts (secondXor s place) where
  counter := by
    have hle : s.core.counter.toNat ≤ ctr33 s.core := Nat.le_add_left _ _
    rw [ctr33_secondXor]
    exact (Nat.add_le_add_right hle _).trans h.counter
  inRange := ⟨h.inRange.2, hrange⟩
  apart := hapart
  admitted := ⟨h.admitted.2, hadm⟩

/-- The second command's output is the first one's input. -/
theorem chacha20XorOutput_secondXor {s : State} (h : Chacha20XorAccepts s) (place : RegPair) :
    chacha20XorOutput (secondXor s place) = readBytes s.mem (r64 s.core.src) (r64 s.core.len) := by
  have hout : chacha20XorOutput (secondXor s place) =
      xorStream (keyBytes s.core) (nonceBytes s.core) s.core.counter.toNat (chacha20XorOutput s) := by
    rw [← readBytes_chacha20XorDone s, ← ctr33_secondXor s place]
    rfl
  rcases ctr33_of_accepts h with hctr | hlen
  · rw [hout, chacha20XorOutput, hctr, xorStream_xorStream]
  · rw [hout, chacha20XorOutput, hlen]
    rfl

/-- Settles O27: the second command is accepted, and its keystream cancels the first one's. -/
theorem chacha20XorTwiceRestoresTheInput : Obligations.Chacha20XorTwiceRestoresTheInput := by
  refine ⟨xorStream_xorStream, fun s t place => ?_⟩
  intro _ _ _ hexec h0 hrange hapart hadm
  have h := chacha20Xor_accepts_of_success hexec h0
  obtain rfl : chacha20XorDone s = t := Host.Outcome.next.inj ((exec_chacha20Xor_accepted h).symm.trans hexec)
  have hsecond := secondXor_accepts h hrange hapart hadm
  refine ⟨_, exec_chacha20Xor_accepted hsecond, rfl, ?_⟩
  rw [← chacha20XorOutput_secondXor h place]
  exact readBytes_chacha20XorDone (secondXor s place)

end Sys2Proof.Machine
end

section
/-! Poly1305's key and tag as integers (41_poly1305.md R150, R151, R155): four words in a row of registers are one
128-bit number, least significant word first. -/

namespace Sys2Proof.Machine

/-! ### Words and their bytes -/

/-- In a concatenation the left part stands above the right part. -/
theorem toNat_append_eq_add {m n : Nat} (x : BitVec m) (y : BitVec n) : (x ++ y).toNat = x.toNat * 2 ^ n + y.toNat := by
  rw [BitVec.toNat_append, ← Nat.shiftLeft_add_eq_or_of_lt y.isLt, Nat.shiftLeft_eq]

/-- The bytes of four words are the little-endian bytes of their concatenation (R12, R150). -/
theorem leNat_four_words (a b c d : Word) : leNat ([a, b, c, d].flatMap ser32) = (d ++ c ++ b ++ a).toNat := by
  simp only [List.flatMap_cons, List.flatMap_nil, leNat_append, leNat_ser32, ser32_length, leNat, toNat_append_eq_add]
  ring

/-! ### The one-time key (R150) -/

/-- The two halves of the key, each four registers. -/
theorem keyBytes_eq_halves (c : Inst) :
    keyBytes c = [c.key[0], c.key[1], c.key[2], c.key[3]].flatMap ser32 ++
      [c.key[4], c.key[5], c.key[6], c.key[7]].flatMap ser32 := by
  have hregs : c.key.toList = [c.key[0], c.key[1], c.key[2], c.key[3]] ++ [c.key[4], c.key[5], c.key[6], c.key[7]] := by
    refine List.ext_getElem (by simp) fun i hi _ => ?_
    have hi8 : i < 8 := by simpa using hi
    rw [Vector.getElem_toList]
    interval_cases i <;> rfl
  rw [keyBytes, hregs, List.flatMap_append]

theorem take_keyBytes (c : Inst) :
    (keyBytes c).take 16 = [c.key[0], c.key[1], c.key[2], c.key[3]].flatMap ser32 := by
  rw [keyBytes_eq_halves]
  exact List.take_left' (flatMap_ser32_length _)

theorem drop_keyBytes (c : Inst) :
    (keyBytes c).drop 16 = [c.key[4], c.key[5], c.key[6], c.key[7]].flatMap ser32 := by
  rw [keyBytes_eq_halves]
  exact List.drop_left' (flatMap_ser32_length _)

theorem leNat_take_keyBytes (c : Inst) :
    leNat ((keyBytes c).take 16) = (c.key[3] ++ c.key[2] ++ c.key[1] ++ c.key[0]).toNat := by
  rw [take_keyBytes, leNat_four_words]

theorem leNat_drop_keyBytes (c : Inst) :
    leNat ((keyBytes c).drop 16) = (c.key[7] ++ c.key[6] ++ c.key[5] ++ c.key[4]).toNat := by
  rw [drop_keyBytes, leNat_four_words]

theorem keyR_keyBytes (c : Inst) : keyR (keyBytes c) = clamp (c.key[3] ++ c.key[2] ++ c.key[1] ++ c.key[0]) := by
  rw [keyR, leNat_take_keyBytes]
  exact congrArg clamp (BitVec.ofNat_toNat ..)

theorem keyS_keyBytes (c : Inst) : keyS (keyBytes c) = c.key[7] ++ c.key[6] ++ c.key[5] ++ c.key[4] := by
  have hwhole : ((keyBytes c).drop 16).take 16 = (keyBytes c).drop 16 := List.take_of_length_le (by simp)
  rw [keyS, hwhole, leNat_drop_keyBytes]
  exact BitVec.ofNat_toNat ..

/-! ### The tag (R155) -/

theorem leNat_finalTag (acc : Nat) (s : Half) : leNat (finalTag acc s) = (acc + s.toNat) % 2 ^ 128 := by
  have h256 : (256 : Nat) ^ 16 = 2 ^ 128 := by decide
  rw [finalTag, leNat_serNat, h256, Nat.mod_mod]

/-- The TAG registers hold the integer of the tag's bytes (10_state.md R33). -/
theorem tagWords_toNat {t : List Byte} (h : t.length = 16) :
    ((tagWords t)[3] ++ (tagWords t)[2] ++ (tagWords t)[1] ++ (tagWords t)[0]).toNat = leNat t := by
  rw [← leNat_four_words]
  exact congrArg leNat (flatMap_ser32_tagWords t h)

/-- Settles O29: both the key's halves and the tag are four words in a row. -/
theorem poly1305RegistersHoldTheirIntegers : Obligations.Poly1305RegistersHoldTheirIntegers := by
  refine ⟨fun c => ⟨leNat_take_keyBytes c, leNat_drop_keyBytes c, keyR_keyBytes c, keyS_keyBytes c⟩,
    fun acc s => ⟨rfl, leNat_finalTag acc s, BitVec.eq_of_toNat_eq ?_⟩⟩
  rw [tagWords_toNat (finalTag_length acc s), leNat_finalTag, BitVec.toNat_ofNat]

/-! ### The clamp (R151; the mask PRESUMED, assumption 22) -/

/-- Which bits the mask keeps: all but the top four of each word and the low two of each word above the first. -/
theorem clampMask_getLsbD : ∀ i < 128, (0x0ffffffc0ffffffc0ffffffc0fffffff : Half).getLsbD i =
    !(decide (28 ≤ i % 32) || (decide (32 ≤ i) && decide (i % 32 < 2))) := by decide

/-- Settles O30: a bit of the clamped multiplier is the bit and its mask bit. -/
theorem clampForcesItsBitsToZero : Obligations.ClampForcesItsBitsToZero := by
  intro r i hi
  rw [clamp, BitVec.getLsbD_and, clampMask_getLsbD i hi]

end Sys2Proof.Machine
end

section
/-! The blocks of a message (41_poly1305.md R153) and the accumulator over them (R152, R154, R156). -/

namespace Sys2Proof.Machine

/-! ### Cutting (R153) -/

/-- A message is a short one or a full block before a message. -/
theorem block_induction {P : List Byte → Prop} (short : ∀ m, m.length < 16 → P m)
    (full : ∀ b m, b.length = 16 → P m → P (b ++ m)) (m : List Byte) : P m := by
  by_cases h : m.length < 16
  · exact short m h
  · have hrest : (m.drop 16).length < m.length := by rw [List.length_drop]; omega
    rw [← List.take_append_drop 16 m]
    exact full _ _ (by rw [List.length_take]; omega) (block_induction short full (m.drop 16))
termination_by m.length

theorem flatten_polyBlocks (m : List Byte) : (polyBlocks m).flatten = m := by
  induction m using block_induction with
  | short m h =>
    by_cases h0 : m = []
    · rw [h0]; rfl
    · rw [polyBlocks_short m h0 h.le, List.flatten_singleton]
  | full b m hb ih => rw [polyBlocks_full b m hb, List.flatten_cons, ih]

theorem polyBlocks_length (m : List Byte) : (polyBlocks m).length = (m.length + 15) / 16 := by
  rw [polyBlocks, List.length_map, List.length_range]

theorem length_of_mem_polyBlocks {m b : List Byte} (hb : b ∈ polyBlocks m) : 1 ≤ b.length ∧ b.length ≤ 16 := by
  rw [polyBlocks, List.mem_map] at hb
  obtain ⟨i, hi, rfl⟩ := hb
  rw [List.mem_range] at hi
  rw [List.length_take, List.length_drop]
  omega

theorem length_of_mem_dropLast_polyBlocks {m b : List Byte} (hb : b ∈ (polyBlocks m).dropLast) : b.length = 16 := by
  rw [polyBlocks, ← List.map_dropLast, List.mem_map] at hb
  obtain ⟨i, hi, rfl⟩ := hb
  have hnotLast : i + 1 < (m.length + 15) / 16 := by
    obtain ⟨j, hj, rfl⟩ := List.mem_iff_getElem.mp hi
    rw [List.length_dropLast, List.length_range] at hj
    rw [List.getElem_dropLast, List.getElem_range]
    omega
  rw [List.length_take, List.length_drop]
  omega

/-! ### A block's integer (R153) -/

theorem blockNumber_eq (b : List Byte) : blockNumber b = leNat b + 256 ^ b.length := by
  rw [blockNumber, Nat.pow_mul]

/-- The one above a block's bytes is the top digit, in base 256. -/
theorem blockNumber_lt (b : List Byte) : blockNumber b < 2 * 256 ^ b.length := by
  have := leNat_lt b
  rw [blockNumber_eq]
  omega

theorem blockNumber_lt_of_length_lt {b d : List Byte} (h : b.length < d.length) : blockNumber b < blockNumber d :=
  calc blockNumber b < 2 * 256 ^ b.length := blockNumber_lt b
    _ ≤ 256 ^ (b.length + 1) := by rw [Nat.pow_succ]; omega
    _ ≤ 256 ^ d.length := Nat.pow_le_pow_right (by decide) h
    _ ≤ blockNumber d := by rw [blockNumber_eq]; exact Nat.le_add_left _ _

theorem blockNumber_injective : Function.Injective blockNumber := by
  intro b d h
  have hlen : b.length = d.length := by
    rcases Nat.lt_trichotomy b.length d.length with hlt | heq | hgt
    · exact absurd h (blockNumber_lt_of_length_lt hlt).ne
    · exact heq
    · exact absurd h (blockNumber_lt_of_length_lt hgt).ne'
  rw [blockNumber_eq, blockNumber_eq, hlen] at h
  exact leNat_inj hlen (Nat.add_right_cancel h)

theorem blockNumber_bound {b : List Byte} (h : b.length ≤ 16) : blockNumber b < 2 ^ 129 :=
  calc blockNumber b < 2 * 256 ^ b.length := blockNumber_lt b
    _ ≤ 2 * 256 ^ 16 := Nat.mul_le_mul_left 2 (Nat.pow_le_pow_right (by decide) h)
    _ = 2 ^ 129 := by decide

/-- Settles O31: the cut block by block; the integers by the one that stands above a block's bytes. -/
theorem blocksCutTheMessage : Obligations.BlocksCutTheMessage :=
  ⟨fun m => ⟨flatten_polyBlocks m, fun _ => length_of_mem_polyBlocks, fun _ => length_of_mem_dropLast_polyBlocks,
      polyBlocks_length m⟩,
    fun _ h => ⟨rfl, blockNumber_bound h⟩, fun _ _ h => blockNumber_injective h⟩

/-! ### The accumulator (R154) and the corner tags (R156) -/

/-- A zero multiplier keeps the accumulator zero. -/
theorem foldl_accStep_zero (bs : List (List Byte)) : bs.foldl (accStep 0) 0 = 0 := by
  have hstep (b : List Byte) : accStep 0 0 b = 0 := by simp [accStep]
  induction bs with
  | nil => rfl
  | cons b bs ih => rw [List.foldl_cons, hstep, ih]

/-- An accumulator at zero leaves the mask. -/
theorem finalTag_zero (s : Half) : finalTag 0 s = serNat 16 s.toNat := by
  rw [finalTag, Nat.zero_add, Nat.mod_eq_of_lt s.isLt]

/-- Settles O32: the fold is the definition's own, and both corner tags end with the accumulator at zero. -/
theorem poly1305CornerTags : Obligations.Poly1305CornerTags := by
  refine ⟨fun _ _ => rfl, fun _ d h => absorb_acc_lt h d, fun k => ?_, fun k m hr => ?_⟩
  · exact finalTag_zero (keyS k)
  · rw [poly1305, hr, foldl_accStep_zero, finalTag_zero]

end Sys2Proof.Machine
end

section
/-! The incremental form (41_poly1305.md R157, R158): absorbing in pieces is absorbing the whole, and the whole is taken
block by block. -/

namespace Sys2Proof.Machine

/-- What does not fill a block is only buffered. -/
theorem absorb_of_lt {x : PolyCtx} {d : List Byte} (h : (x.pbuf ++ d).length < 16) :
    absorb x d = { x with pbuf := x.pbuf ++ d } := by
  simp only [absorb, Nat.div_eq_of_lt h, absorbFull]

/-- A block that meets an empty buffer is accumulated at once. -/
theorem absorb_block {x : PolyCtx} {b : List Byte} (hx : x.pbuf = []) (hb : b.length = 16) :
    absorb x b = { x with acc := accStep x.r x.acc b } := by
  have htake : b.take 16 = b := List.take_of_length_le hb.le
  have hdrop : b.drop 16 = [] := List.drop_eq_nil_of_le hb.le
  simp only [absorb, hx, List.nil_append, hb, Nat.div_self, Nat.succ_pos, absorbFull, htake, hdrop]

/-- Two pieces absorbed in turn are absorbed as one. -/
theorem absorb_absorb (x : PolyCtx) (d e : List Byte) : absorb (absorb x d) e = absorb x (d ++ e) := by
  have hassoc : x.pbuf ++ (d ++ e) = x.pbuf ++ d ++ e := (List.append_assoc ..).symm
  have hcount : (x.pbuf ++ d ++ e).length / 16 =
      (x.pbuf ++ d).length / 16 + ((absorb x d).pbuf ++ e).length / 16 := by
    simp only [List.length_append, absorb_pbuf_length]
    omega
  have hall : absorbFull x.r ((x.pbuf ++ d ++ e).length / 16) x.acc (x.pbuf ++ d ++ e) =
      absorbFull x.r (((absorb x d).pbuf ++ e).length / 16) (absorb x d).acc ((absorb x d).pbuf ++ e) := by
    rw [hcount, absorbFull_add, absorbFull_append _ _ _ _ _ (Nat.mul_div_le _ 16)]
    rfl
  rw [absorb, absorb_r, ← hall, ← hassoc]
  rfl

theorem foldl_absorb {x : PolyCtx} (hx : x.pbuf.length < 16) (ds : List (List Byte)) :
    ds.foldl absorb x = absorb x ds.flatten := by
  induction ds generalizing x with
  | nil => simp [absorb_of_lt, hx]
  | cons d ds ih =>
    have hd : (absorb x d).pbuf.length < 16 := by rw [absorb_pbuf_length]; omega
    rw [List.foldl_cons, ih hd, absorb_absorb, List.flatten_cons]

/-- Absorbing a whole message and finishing takes its blocks, the last one at the finish. -/
theorem finalOf_absorb {x : PolyCtx} (hx : x.pbuf = []) (m : List Byte) :
    finalOf (absorb x m) = finalTag ((polyBlocks m).foldl (accStep x.r) x.acc) x.s := by
  induction m using block_induction generalizing x with
  | short m h =>
    rw [absorb_of_lt (by simpa [hx] using h), hx, List.nil_append]
    by_cases h0 : m = []
    · simp [h0, finalOf]
    · simp [polyBlocks_short m h0 h.le, finalOf, h0]
  | full b m hb ih =>
    have hempty : (absorb x b).pbuf = [] := by rw [absorb_block hx hb]; exact hx
    rw [← absorb_absorb, ih hempty, absorb_block hx hb, polyBlocks_full b m hb, List.foldl_cons]

/-- Settles O33: the pieces are absorbed as their concatenation. -/
theorem incrementalPoly1305EqualsOneShot : Obligations.IncrementalPoly1305EqualsOneShot := by
  intro k ds
  have hempty : (openCtx k).pbuf = [] := rfl
  rw [foldl_absorb (by rw [hempty]; decide), finalOf_absorb hempty]
  rfl

end Sys2Proof.Machine
end

section
/-! The four Poly1305 commands (41_poly1305.md R159 to R162), branch by branch in the statements' words, and the datapath
they share with AEAD and ZEROIZE (R163). -/

namespace Sys2Proof.Machine

/-! ### POLY1305_INIT (R159) -/

theorem openCtx_keyBytes (c : Inst) : openCtx (keyBytes c) = {
    valid := true
    r := clamp (c.key[3] ++ c.key[2] ++ c.key[1] ++ c.key[0])
    s := c.key[7] ++ c.key[6] ++ c.key[5] ++ c.key[4]
    acc := 0
    pbuf := [] } := by
  rw [openCtx, keyR_keyBytes, keyS_keyBytes]

/-- Settles O8: the context opened is the one of the KEY registers. -/
theorem poly1305InitOpensTheContext : Obligations.Poly1305InitOpensTheContext := by
  intro s
  rw [exec_poly1305Init, poly1305InitRule, openCtx_keyBytes]
  rfl

/-! ### POLY1305_UPDATE (R160) -/

/-- Settles O9, one branch of the rule for each clause. -/
theorem poly1305UpdateRunsItsRule : Obligations.Poly1305UpdateRunsItsRule := by
  intro s
  refine ⟨fun hnone => ?_, fun hopen hrange => ?_, fun hopen hrange hadm => ?_, fun hopen hrange hadm => ⟨?_, ?_, ?_⟩⟩
  · rw [exec_poly1305Update, poly1305Update_noContext s hnone, complete_eq]
    rfl
  · rw [exec_poly1305Update, poly1305Update_address s hopen (not_rangeOk hrange), complete_eq]
    rfl
  · rw [exec_poly1305Update,
      poly1305Update_busError s hopen ((rangeOk_iff ..).mpr hrange) (not_allAdmitted hadm), closeCtx_complete]
    rfl
  · rw [exec_poly1305Update,
      poly1305Update_ok s hopen ((rangeOk_iff ..).mpr hrange) ((allAdmitted_iff ..).mpr hadm)]
    rfl
  · rw [absorb_valid, hopen]
  · rw [absorb_pbuf_length, readBytes_length]

/-! ### POLY1305_FINISH (R161) -/

/-- Settles O10: the words written to TAG give the tag's bytes back. -/
theorem poly1305FinishRunsItsRule : Obligations.Poly1305FinishRunsItsRule := by
  intro s
  refine ⟨fun hnone => ?_, fun hopen => ⟨tagWords (finalOf s.core.ctx), ?_, ?_⟩⟩
  · rw [exec_poly1305Finish, poly1305Finish_noContext s hnone, complete_eq]
    rfl
  · rw [exec_poly1305Finish, poly1305Finish_ok s hopen]
    rfl
  · exact flatMap_ser32_tagWords _ (finalOf_length _)

/-! ### POLY1305_AUTH (R162) -/

/-- Settles O11, one branch of the rule for each clause. -/
theorem poly1305AuthRunsItsRule : Obligations.Poly1305AuthRunsItsRule := by
  intro s
  refine ⟨fun hrange => ?_, fun hrange hadm => ?_,
    fun hrange hadm => ⟨_, ?_, flatMap_ser32_tagWords _ (poly1305_length ..)⟩⟩
  · rw [exec_poly1305Auth, poly1305Auth_address s (not_rangeOk hrange), complete_eq]
    rfl
  · rw [exec_poly1305Auth, poly1305Auth_busError s ((rangeOk_iff ..).mpr hrange) (not_allAdmitted hadm),
      closeCtx_complete]
    rfl
  · rw [exec_poly1305Auth, poly1305Auth_ok s ((rangeOk_iff ..).mpr hrange) ((allAdmitted_iff ..).mpr hadm)]
    rfl

/-! ### The shared datapath (R163) -/

/-- The codes of a command rejected by its checks on lengths and ranges: LENGTH, ADDRESS, OVERLAP. -/
def rejectionCodes : List (BitVec 4) := [3, 4, 5]

/-- From `s` to `t` a command was rejected with the context kept, or has closed the context (an AUTH_FAIL too,
assumption 20). -/
def KeptOrClosed (s t : State) : Prop :=
  (t.core.errcode ∈ rejectionCodes ∧ t.core.ctx = s.core.ctx) ∨
    (t.core.errcode ∉ rejectionCodes ∧ t.core.ctx = PolyCtx.closed)

theorem keptOrClosed_rejected (s : State) {e : ErrCode} (he : errNumber e ∈ rejectionCodes) :
    KeptOrClosed s (s.complete e) := .inl ⟨he, rfl⟩

theorem keptOrClosed_closed (s : State) {u : State} (hu : u.core.ctx = PolyCtx.closed) {e : ErrCode}
    (he : errNumber e ∉ rejectionCodes) : KeptOrClosed s (u.complete e) := .inr ⟨he, hu⟩

theorem poly1305AuthRule_keptOrClosed (s : State) : KeptOrClosed s (poly1305AuthRule s) := by
  rcases poly1305Auth_cases s with ⟨-, h⟩ | ⟨-, -, h⟩ | ⟨-, -, h⟩ <;> rw [h]
  · exact keptOrClosed_rejected s (by decide)
  · exact keptOrClosed_closed s rfl (by decide)
  · exact keptOrClosed_closed s rfl (by decide)

theorem aeadEncryptRule_keptOrClosed (s : State) : KeptOrClosed s (aeadEncryptRule s) := by
  rcases aeadEncrypt_cases s with ⟨-, h⟩ | ⟨-, -, h⟩ | ⟨-, -, -, h⟩ | ⟨-, -, -, -, h⟩ | ⟨-, -, -, -, h⟩ <;> rw [h]
  · exact keptOrClosed_rejected s (by decide)
  · exact keptOrClosed_rejected s (by decide)
  · exact keptOrClosed_rejected s (by decide)
  · exact keptOrClosed_closed s rfl (by decide)
  · exact keptOrClosed_closed s rfl (by decide)

theorem aeadDecryptRule_keptOrClosed (s : State) : KeptOrClosed s (aeadDecryptRule s) := by
  rcases aeadDecrypt_cases s with ⟨-, h⟩ | ⟨-, -, h⟩ | ⟨-, -, -, h⟩ | ⟨-, -, -, -, h⟩ | ⟨-, -, -, -, -, h⟩ |
    ⟨-, -, -, -, -, -, h⟩ | ⟨-, -, -, -, -, -, h⟩ <;> rw [h]
  · exact keptOrClosed_rejected s (by decide)
  · exact keptOrClosed_rejected s (by decide)
  · exact keptOrClosed_rejected s (by decide)
  · exact keptOrClosed_closed s rfl (by decide)
  · exact keptOrClosed_closed s rfl (by decide)
  · exact keptOrClosed_closed s rfl (by decide)
  · exact keptOrClosed_closed s rfl (by decide)

theorem zeroizeRule_keptOrClosed (s : State) : KeptOrClosed s (zeroizeRule s) :=
  keptOrClosed_closed s rfl (by decide)

theorem exec_keptOrClosed {i : Instr} {s t : State}
    (hi : i ∈ [Instr.poly1305Auth, .aeadEncrypt, .aeadDecrypt, .zeroize]) (h : exec i s = .next t) :
    KeptOrClosed s t := by
  simp only [List.mem_cons, List.not_mem_nil, or_false] at hi
  rcases hi with rfl | rfl | rfl | rfl <;> obtain rfl := Host.Outcome.next.inj h
  · exact poly1305AuthRule_keptOrClosed s
  · exact aeadEncryptRule_keptOrClosed s
  · exact aeadDecryptRule_keptOrClosed s
  · exact zeroizeRule_keptOrClosed s

/-- Settles O34: the command kept or closed the context, and a closed one is no context to UPDATE or FINISH. -/
theorem sharedDatapathClosesTheContext : Obligations.SharedDatapathClosesTheContext := by
  intro i s t hi h
  rcases exec_keptOrClosed hi h with ⟨hcode, hctx⟩ | ⟨hcode, hctx⟩
  · exact ⟨fun _ => hctx, fun hnot => absurd hcode hnot⟩
  · have hnone : t.core.ctx.valid = false := by rw [hctx]; rfl
    exact ⟨fun hin => absurd hin hcode,
      fun _ => ⟨hctx, (poly1305UpdateRunsItsRule t).1 hnone, (poly1305FinishRunsItsRule t).1 hnone⟩⟩

end Sys2Proof.Machine
end

section
/-! The MAC data of the AEAD construction (42_aead.md R192). -/

namespace Sys2Proof.Machine

theorem pad16_lt (x : Nat) : pad16 x < 16 := Nat.mod_lt _ (by decide)

theorem add_pad16_mod (x : Nat) : (x + pad16 x) % 16 = 0 := by
  unfold pad16
  omega

theorem macData_length (ad ct : List Byte) :
    (macData ad ct).length = (ad.length + pad16 ad.length) + (ct.length + pad16 ct.length) + 16 := by
  simp only [macData, zeroBytes, List.length_append, List.length_replicate, serNat_length]
  omega

/-- Settles O35: the padding is `pad16`. -/
theorem macDataIsPaddedAndAligned : Obligations.MacDataIsPaddedAndAligned := by
  intro ad ct
  have had := add_pad16_mod ad.length
  have hct := add_pad16_mod ct.length
  refine ⟨?_, pad16 ad.length, pad16 ct.length, pad16_lt _, pad16_lt _, had, hct, rfl⟩
  rw [macData_length]
  omega

end Sys2Proof.Machine
end

section
/-! The AEAD commands (42_aead.md R193, R194, R196): when each accepts, what it leaves, and each branch of its rule in the
statements' words. -/

namespace Sys2Proof.Machine

/-! ### What the commands compute and check -/

/-- The input under the keystream from block 1: the ciphertext of an encryption, the plaintext of a decryption. -/
def aeadOutput (s : State) : List Byte :=
  xorStream (keyBytes s.core) (nonceBytes s.core) 1 (readBytes s.mem (r64 s.core.src) (r64 s.core.len))

/-- The tag of a ciphertext with the KEY, NONCE and associated data of a state. -/
def aeadTagOf (s : State) (ct : List Byte) : List Byte :=
  aeadTag (keyBytes s.core) (nonceBytes s.core) (readBytes s.mem (r64 s.core.aad) (r64 s.core.aadlen)) ct

@[simp] theorem aeadOutput_length (s : State) : (aeadOutput s).length = r64 s.core.len := by simp [aeadOutput]

@[simp] theorem aeadTagOf_length (s : State) (ct : List Byte) : (aeadTagOf s ct).length = 16 := poly1305_length ..

/-- The checks either command makes before it closes the context, when it is to write `n` bytes. -/
structure AeadChecks (s : State) (n : Nat) : Prop where
  length  : r64 s.core.len ≤ aeadMaxLen
  inRange : RangeOk s.params (r64 s.core.src) (r64 s.core.len) ∧ RangeOk s.params (r64 s.core.dst) n ∧
    RangeOk s.params (r64 s.core.aad) (r64 s.core.aadlen)
  apart   : (r64 s.core.src = r64 s.core.dst ∨ Apart (r64 s.core.src) (r64 s.core.len) (r64 s.core.dst) n) ∧
    Apart (r64 s.core.aad) (r64 s.core.aadlen) (r64 s.core.dst) n

theorem threeInRange_iff (p : Params) (a n b k c j : Nat) :
    (inRange p a n && inRange p b k && inRange p c j) = true ↔ RangeOk p a n ∧ RangeOk p b k ∧ RangeOk p c j := by
  rw [Bool.and_eq_true, bothInRange_iff, rangeOk_iff, and_assoc]

theorem threeAdmitted_iff (p : Params) (a n b k c j : Nat) :
    (admitted p a n && admitted p b k && admitted p c j) = true ↔
      AllAdmitted p a n ∧ AllAdmitted p b k ∧ AllAdmitted p c j := by
  rw [Bool.and_eq_true, bothAdmitted_iff, allAdmitted_iff, and_assoc]

theorem sourcesApart_iff (a n b k d j : Nat) :
    ((a == d || disjoint ⟨a, n⟩ ⟨d, j⟩) && disjoint ⟨b, k⟩ ⟨d, j⟩) = true ↔
      (a = d ∨ Apart a n d j) ∧ Apart b k d j := by
  rw [Bool.and_eq_true, sameOrDisjoint_iff, apart_iff]

/-! ### Completion codes -/

theorem errNumber_injective : Function.Injective errNumber := by
  intro e f
  cases e <;> cases f <;> decide

theorem complete_errcode_iff (u : State) (e f : ErrCode) : (u.complete e).core.errcode = errNumber f ↔ e = f :=
  errNumber_injective.eq_iff

/-! ### AEAD_ENCRYPT (R194) -/

/-- Everything AEAD_ENCRYPT checks. -/
structure AeadEncryptAccepts (s : State) : Prop where
  checks   : AeadChecks s (r64 s.core.len + 16)
  admitted : AllAdmitted s.params (r64 s.core.src) (r64 s.core.len) ∧
    AllAdmitted s.params (r64 s.core.aad) (r64 s.core.aadlen) ∧
    AllAdmitted s.params (r64 s.core.dst) (r64 s.core.len + 16)

/-- The state an AEAD_ENCRYPT leaves when its checks pass. -/
def aeadEncryptDone (s : State) : State :=
  { s with
    mem := writeBytes s.mem (r64 s.core.dst) (aeadOutput s ++ aeadTagOf s (aeadOutput s))
    core := { s.core.ended 0 with tag := tagWords (aeadTagOf s (aeadOutput s)), ctx := PolyCtx.closed } }

theorem exec_aeadEncrypt_accepted {s : State} (h : AeadEncryptAccepts s) :
    exec .aeadEncrypt s = .next (aeadEncryptDone s) := by
  obtain ⟨⟨hlen, hrange, hapart⟩, hadm⟩ := h
  rw [exec_aeadEncrypt, aeadEncrypt_ok s hlen ((threeInRange_iff ..).mpr hrange) ((sourcesApart_iff ..).mpr hapart)
    ((threeAdmitted_iff ..).mpr hadm), closeCtx_memWrite_setTag_complete]
  rfl

/-- Only an accepted AEAD_ENCRYPT ends with error number 0. -/
theorem aeadEncrypt_accepts_of_success {s t : State} (h : exec .aeadEncrypt s = .next t) (h0 : t.core.errcode = 0) :
    AeadEncryptAccepts s := by
  obtain rfl := Host.Outcome.next.inj h
  have hnone {u : State} {e : ErrCode} (hu : aeadEncryptRule s = u.complete e) : e = .none :=
    (complete_errcode_iff u e .none).mp (hu ▸ h0)
  rcases aeadEncrypt_cases s with ⟨-, hu⟩ | ⟨-, -, hu⟩ | ⟨-, -, -, hu⟩ | ⟨-, -, -, -, hu⟩ |
    ⟨hlen, hrange, hapart, hadm, -⟩
  · cases hnone hu
  · cases hnone hu
  · cases hnone hu
  · cases hnone hu
  · exact ⟨⟨hlen, (threeInRange_iff ..).mp hrange, (sourcesApart_iff ..).mp hapart⟩, (threeAdmitted_iff ..).mp hadm⟩

/-- Settles O12, one branch of the rule for each clause. -/
theorem aeadEncryptRunsItsRule : Obligations.AeadEncryptRunsItsRule := by
  intro s
  refine ⟨fun hlen => ?_, fun hlen hrange => ?_, fun hlen hrange hapart => ?_,
    fun hlen hrange hapart hadm => ?_, fun hlen hrange hapart hadm => ?_⟩
  · rw [exec_aeadEncrypt, aeadEncrypt_length s hlen, complete_eq]
    rfl
  · rw [← threeInRange_iff, Bool.not_eq_true] at hrange
    rw [exec_aeadEncrypt, aeadEncrypt_address s hlen hrange, complete_eq]
    rfl
  · rw [← sourcesApart_iff, Bool.not_eq_true] at hapart
    rw [exec_aeadEncrypt, aeadEncrypt_overlap s hlen ((threeInRange_iff ..).mpr hrange) hapart, complete_eq]
    rfl
  · rw [← threeAdmitted_iff, Bool.not_eq_true] at hadm
    rw [exec_aeadEncrypt, aeadEncrypt_busError s hlen ((threeInRange_iff ..).mpr hrange)
      ((sourcesApart_iff ..).mpr hapart) hadm, closeCtx_scribble_complete]
    exact ⟨_, _, rfl, freeOnlyIn_freeBytes _ _ _ _ _⟩
  · exact ⟨_, _, exec_aeadEncrypt_accepted ⟨⟨hlen, hrange, hapart⟩, hadm⟩,
      flatMap_ser32_tagWords _ (poly1305_length ..), wrote_writeBytes _ _ _⟩

/-! ### AEAD_DECRYPT (R196) -/

/-- The tag an AEAD_DECRYPT computes from the ciphertext it reads. -/
def aeadExpectedTag (s : State) : List Byte := aeadTagOf s (readBytes s.mem (r64 s.core.src) (r64 s.core.len))

theorem ctEqual16_iff (x y : List Byte) : ctEqual16 x y = true ↔ y = x := beq_iff_eq.trans eq_comm

/-- Everything AEAD_DECRYPT checks. -/
structure AeadDecryptAccepts (s : State) : Prop where
  checks    : AeadChecks s (r64 s.core.len)
  readable  : AllAdmitted s.params (r64 s.core.src) (r64 s.core.len) ∧
    AllAdmitted s.params (r64 s.core.aad) (r64 s.core.aadlen)
  authentic : tagBytes s.core = aeadExpectedTag s
  writable  : AllAdmitted s.params (r64 s.core.dst) (r64 s.core.len)

/-- The state an AEAD_DECRYPT leaves when its checks pass. -/
def aeadDecryptDone (s : State) : State :=
  { s with
    mem := writeBytes s.mem (r64 s.core.dst) (aeadOutput s)
    core := { s.core.ended 0 with ctx := PolyCtx.closed } }

theorem exec_aeadDecrypt_accepted {s : State} (h : AeadDecryptAccepts s) :
    exec .aeadDecrypt s = .next (aeadDecryptDone s) := by
  obtain ⟨⟨hlen, hrange, hapart⟩, hread, htag, hwrite⟩ := h
  rw [exec_aeadDecrypt, aeadDecrypt_ok s hlen ((threeInRange_iff ..).mpr hrange) ((sourcesApart_iff ..).mpr hapart)
    ((bothAdmitted_iff ..).mpr hread) ((ctEqual16_iff ..).mpr htag) ((allAdmitted_iff ..).mpr hwrite),
    closeCtx_memWrite_complete]
  rfl

/-- Settles O13, one branch of the rule for each clause. -/
theorem aeadDecryptRunsItsRule : Obligations.AeadDecryptRunsItsRule := by
  intro s
  refine ⟨fun hlen => ?_, fun hlen hrange => ?_, fun hlen hrange hapart => ?_,
    fun hlen hrange hapart hread => ?_, fun hlen hrange hapart hread htag => ?_,
    fun hlen hrange hapart hread htag hwrite => ?_, fun hlen hrange hapart hread htag hwrite => ?_⟩
  · rw [exec_aeadDecrypt, aeadDecrypt_length s hlen, complete_eq]
    rfl
  · rw [← threeInRange_iff, Bool.not_eq_true] at hrange
    rw [exec_aeadDecrypt, aeadDecrypt_address s hlen hrange, complete_eq]
    rfl
  · rw [← sourcesApart_iff, Bool.not_eq_true] at hapart
    rw [exec_aeadDecrypt, aeadDecrypt_overlap s hlen ((threeInRange_iff ..).mpr hrange) hapart, complete_eq]
    rfl
  · rw [← bothAdmitted_iff, Bool.not_eq_true] at hread
    rw [exec_aeadDecrypt, aeadDecrypt_busErrorRead s hlen ((threeInRange_iff ..).mpr hrange)
      ((sourcesApart_iff ..).mpr hapart) hread, closeCtx_complete]
    rfl
  · rw [Ne, ← ctEqual16_iff, Bool.not_eq_true] at htag
    rw [exec_aeadDecrypt, aeadDecrypt_authFail s hlen ((threeInRange_iff ..).mpr hrange)
      ((sourcesApart_iff ..).mpr hapart) ((bothAdmitted_iff ..).mpr hread) htag, closeCtx_complete]
    rfl
  · rw [exec_aeadDecrypt, aeadDecrypt_busErrorWrite s hlen ((threeInRange_iff ..).mpr hrange)
      ((sourcesApart_iff ..).mpr hapart) ((bothAdmitted_iff ..).mpr hread) ((ctEqual16_iff ..).mpr htag)
      (not_allAdmitted hwrite), closeCtx_scribble_complete]
    exact ⟨_, _, rfl, freeOnlyIn_freeBytes _ _ _ _ _⟩
  · exact ⟨_, exec_aeadDecrypt_accepted ⟨⟨hlen, hrange, hapart⟩, hread, htag, hwrite⟩, wrote_writeBytes _ _ _⟩

/-! ### The length limit (R193) -/

/-- The last keystream block of an AEAD command has index `ceil(LEN / 64)`. -/
theorem aeadMaxLen_lt_iff (l : Nat) : aeadMaxLen < l ↔ 2 ^ 32 - 1 < (l + 63) / 64 := by
  unfold aeadMaxLen
  omega

theorem aeadEncryptRule_length_iff (s : State) :
    (aeadEncryptRule s).core.errcode = errNumber .length ↔ aeadMaxLen < r64 s.core.len := by
  rcases aeadEncrypt_cases s with ⟨hlen, h⟩ | ⟨hlen, -, h⟩ | ⟨hlen, -, -, h⟩ | ⟨hlen, -, -, -, h⟩ |
    ⟨hlen, -, -, -, h⟩ <;> rw [h, complete_errcode_iff]
  · exact iff_of_true rfl hlen
  all_goals exact iff_of_false (by decide) hlen.not_gt

theorem aeadDecryptRule_length_iff (s : State) :
    (aeadDecryptRule s).core.errcode = errNumber .length ↔ aeadMaxLen < r64 s.core.len := by
  rcases aeadDecrypt_cases s with ⟨hlen, h⟩ | ⟨hlen, -, h⟩ | ⟨hlen, -, -, h⟩ | ⟨hlen, -, -, -, h⟩ |
    ⟨hlen, -, -, -, -, h⟩ | ⟨hlen, -, -, -, -, -, h⟩ | ⟨hlen, -, -, -, -, -, h⟩ <;> rw [h, complete_errcode_iff]
  · exact iff_of_true rfl hlen
  all_goals exact iff_of_false (by decide) hlen.not_gt

/-- Settles O36: LENGTH is the first check of both commands, and no other branch reports it. -/
theorem aeadLengthLimitIsExact : Obligations.AeadLengthLimitIsExact := by
  intro i s t hi h
  refine ⟨?_, aeadMaxLen_lt_iff _⟩
  simp only [List.mem_cons, List.not_mem_nil, or_false] at hi
  rcases hi with rfl | rfl <;> obtain rfl := Host.Outcome.next.inj h
  · exact aeadEncryptRule_length_iff s
  · exact aeadDecryptRule_length_iff s

end Sys2Proof.Machine
end

section
/-! Encryption, then decryption of what it wrote (42_aead.md R199). -/

namespace Sys2Proof.Machine

/-! ### Ranges and memory -/

theorem rangeOk_of_add {p : Params} {a n k : Nat} (h : RangeOk p a (n + k)) : RangeOk p a n := by
  unfold RangeOk at *
  omega

theorem allAdmitted_of_add {p : Params} {a n k : Nat} (h : AllAdmitted p a (n + k)) : AllAdmitted p a n :=
  fun i hi => h i (hi.trans_le (Nat.le_add_right n k))

/-- Two strings written one after the other are read back apart (20_memory.md R62, R63). -/
theorem readBytes_writeBytes_append (m : Memory) (a : Nat) (v w : List Byte) :
    readBytes (writeBytes m a (v ++ w)) a v.length = v ∧
      readBytes (writeBytes m a (v ++ w)) (a + v.length) w.length = w := by
  refine List.append_inj ?_ (readBytes_length ..)
  rw [← readBytes_append, ← List.length_append, readBytes_writeBytes_same]

/-- A read apart from a write is not changed by it. -/
theorem readBytes_writeBytes_apart {a n b : Nat} {v : List Byte} (m : Memory) (h : Apart a n b v.length) :
    readBytes (writeBytes m b v) a n = readBytes m a n := by
  refine readBytes_congr fun x hlo hhi => readByte_writeBytes_outside m b v x ?_
  unfold Apart at h
  omega

/-! ### What encryption leaves for decryption -/

theorem readBytes_aeadEncryptDone (s : State) :
    readBytes (aeadEncryptDone s).mem (r64 s.core.dst) (r64 s.core.len) = aeadOutput s ∧
      readBytes (aeadEncryptDone s).mem (r64 s.core.dst + r64 s.core.len) 16 = aeadTagOf s (aeadOutput s) := by
  have h := readBytes_writeBytes_append s.mem (r64 s.core.dst) (aeadOutput s) (aeadTagOf s (aeadOutput s))
  rwa [aeadOutput_length, aeadTagOf_length] at h

theorem readBytes_aad_aeadEncryptDone {s : State} (h : AeadEncryptAccepts s) :
    readBytes (aeadEncryptDone s).mem (r64 s.core.aad) (r64 s.core.aadlen) =
      readBytes s.mem (r64 s.core.aad) (r64 s.core.aadlen) := by
  refine readBytes_writeBytes_apart _ ?_
  rw [List.length_append, aeadOutput_length, aeadTagOf_length]
  exact h.checks.apart.2

/-- The plaintext read back from where a decryption wrote it. -/
theorem readBytes_aeadDecryptDone (s : State) :
    readBytes (aeadDecryptDone s).mem (r64 s.core.dst) (r64 s.core.len) = aeadOutput s := by
  rw [← aeadOutput_length s]
  exact readBytes_writeBytes_same ..

/-- The receiver after an AEAD_ENCRYPT: the ciphertext as the input, the 16 bytes after it in TAG, and a place to
write. -/
def aeadReceiver (s : State) (place : RegPair) : State :=
  (aeadEncryptDone s).setCore { (aeadEncryptDone s).core with
    src := s.core.dst, dst := place
    tag := tagWords (readBytes (aeadEncryptDone s).mem (r64 s.core.dst + r64 s.core.len) 16) }

theorem tagBytes_aeadReceiver (s : State) (place : RegPair) :
    tagBytes (aeadReceiver s place).core = aeadTagOf s (aeadOutput s) := by
  rw [← (readBytes_aeadEncryptDone s).2]
  exact flatMap_ser32_tagWords _ (readBytes_length ..)

/-- Both sides authenticate the same associated data and ciphertext. -/
theorem aeadExpectedTag_aeadReceiver {s : State} (h : AeadEncryptAccepts s) (place : RegPair) :
    aeadExpectedTag (aeadReceiver s place) = aeadTagOf s (aeadOutput s) := by
  have hct := (readBytes_aeadEncryptDone s).1
  have had := readBytes_aad_aeadEncryptDone h
  calc aeadExpectedTag (aeadReceiver s place)
    _ = aeadTag (keyBytes s.core) (nonceBytes s.core)
          (readBytes (aeadEncryptDone s).mem (r64 s.core.aad) (r64 s.core.aadlen))
          (readBytes (aeadEncryptDone s).mem (r64 s.core.dst) (r64 s.core.len)) := rfl
    _ = aeadTagOf s (aeadOutput s) := by rw [hct, had, aeadTagOf]

/-- The receiver's output is the sender's input. -/
theorem aeadOutput_aeadReceiver (s : State) (place : RegPair) :
    aeadOutput (aeadReceiver s place) = readBytes s.mem (r64 s.core.src) (r64 s.core.len) := by
  calc aeadOutput (aeadReceiver s place)
    _ = xorStream (keyBytes s.core) (nonceBytes s.core) 1
          (readBytes (aeadEncryptDone s).mem (r64 s.core.dst) (r64 s.core.len)) := rfl
    _ = readBytes s.mem (r64 s.core.src) (r64 s.core.len) := by
      rw [(readBytes_aeadEncryptDone s).1, aeadOutput, xorStream_xorStream]

theorem aeadReceiver_accepts {s : State} (h : AeadEncryptAccepts s) {place : RegPair}
    (hrange : RangeOk s.params (r64 place) (r64 s.core.len))
    (hapart : r64 s.core.dst = r64 place ∨ Apart (r64 s.core.dst) (r64 s.core.len) (r64 place) (r64 s.core.len))
    (haad : Apart (r64 s.core.aad) (r64 s.core.aadlen) (r64 place) (r64 s.core.len))
    (hadm : AllAdmitted s.params (r64 place) (r64 s.core.len)) : AeadDecryptAccepts (aeadReceiver s place) := by
  have htag := (tagBytes_aeadReceiver s place).trans (aeadExpectedTag_aeadReceiver h place).symm
  obtain ⟨⟨hlen, ⟨-, hdst, had⟩, -⟩, -, hadAdm, hdstAdm⟩ := h
  exact {
    checks := ⟨hlen, ⟨rangeOk_of_add hdst, hrange, had⟩, hapart, haad⟩
    readable := ⟨allAdmitted_of_add hdstAdm, hadAdm⟩
    authentic := htag
    writable := hadm }

/-- Settles O38: the receiver is accepted, and its keystream cancels the sender's. -/
theorem aeadRoundTrip : Obligations.AeadRoundTrip := by
  intro s t place _ _ _ _ hexec h0 hrange hapart haad hadm
  have h := aeadEncrypt_accepts_of_success hexec h0
  obtain rfl : aeadEncryptDone s = t := Host.Outcome.next.inj ((exec_aeadEncrypt_accepted h).symm.trans hexec)
  refine ⟨_, exec_aeadDecrypt_accepted (aeadReceiver_accepts h hrange hapart haad hadm), rfl, ?_⟩
  rw [← aeadOutput_aeadReceiver s place]
  exact readBytes_aeadDecryptDone (aeadReceiver s place)

end Sys2Proof.Machine
end

section
/-! The control commands (43_control.md): what ZEROIZE leaves (R235), and the register access of another width or
alignment (R238). -/

namespace Sys2Proof.Machine

/-! ### ZEROIZE -/

/-- R235: the completed state in one piece, with every secret at zero. -/
theorem zeroizeRule_eq (s : State) : zeroizeRule s = { s with core := { s.core.ended 0 with
    key := Vector.replicate 8 0, tag := Vector.replicate 4 0, ctx := PolyCtx.closed } } := rfl

theorem zeroizeRule_key (s : State) (i : Fin 8) : (zeroizeRule s).core.key[i] = 0 := by
  rw [zeroizeRule_eq]
  exact Vector.getElem_replicate i.isLt

theorem zeroizeRule_tag (s : State) (k : Fin 4) : (zeroizeRule s).core.tag[k] = 0 := by
  rw [zeroizeRule_eq]
  exact Vector.getElem_replicate k.isLt

/-- Settles O14: the completed state of R235, then KEY and TAG read word by word. -/
theorem zeroizeClearsEverySecret : Obligations.ZeroizeClearsEverySecret := fun s =>
  ⟨zeroizeRule s, exec_zeroize s, zeroizeRule_eq s, zeroizeRule_key s, zeroizeRule_tag s⟩

/-! ### The form of a register access -/

theorem regAccessOk_iff {off bytes : Nat} : regAccessOk off bytes = true ↔ bytes = 4 ∧ off % 4 = 0 := by
  simp only [regAccessOk, Bool.and_eq_true, beq_iff_eq]

theorem busWrite_wrong_form {s u : State} {addr bytes : Nat} (v : Word) (h : s.focusAddr addr = some u)
    (hform : ¬regAccessOk (addr - u.core.base) bytes = true) : busWrite addr bytes v s = .fault .hostAccess := by
  simp only [busWrite, h, if_neg hform]

theorem busRead_wrong_form {s u : State} {addr bytes : Nat} (x : Nat) (h : s.focusAddr addr = some u)
    (hform : ¬regAccessOk (addr - u.core.base) bytes = true) : busRead addr bytes x s = .fault .hostAccess := by
  simp only [busRead, h, if_neg hform]

/-- Settles O48: a wrong width or a wrong alignment each spoils the form that reads and writes alike require. -/
theorem wrongRegisterAccessFaults : Obligations.WrongRegisterAccessFaults := by
  intro s u addr bytes x v hfocus hwrong
  have hform : ¬regAccessOk (addr - u.core.base) bytes = true := mt regAccessOk_iff.mp (not_and_or.mpr hwrong)
  exact ⟨busWrite_wrong_form v hfocus hform, busRead_wrong_form x hfocus hform⟩

end Sys2Proof.Machine
end

section
/-! Reset (70_reset_and_hazards.md R301, R302): what the register file of an instance reads after it. -/

namespace Sys2Proof.Machine

/-- Whatever a pending command's write range takes, the instance itself is reset. -/
@[simp] theorem resetInst_core (s : State) : (resetInst s).core = s.core.resetRegs := rfl

theorem regRead_of_reserved {off : Nat} (h : regAt off = none) (c : Inst) : regRead off c = 0 := by
  simp only [regRead, h]

/-- R301: STATUS is zero. None of its fields is BASE or the level of the reset input. -/
theorem statusWord_resetRegs (c : Inst) : statusWord c.resetRegs = 0 :=
  calc statusWord c.resetRegs
    _ = statusWord (Inst.reset 0) := rfl
    _ = 0 := by decide

theorem ctrlWord_resetRegs (c : Inst) : ctrlWord c.resetRegs = 0 :=
  calc ctrlWord c.resetRegs
    _ = ctrlWord (Inst.reset 0) := rfl
    _ = 0 := by decide

theorem resetRegs_key (c : Inst) (i : Fin 8) : c.resetRegs.key[i] = 0 := Vector.getElem_replicate i.isLt

/-- R302: IRQ is low. -/
theorem irqLevel_resetRegs (c : Inst) : irqLevel c.resetRegs = false := rfl

@[simp] theorem resetRegs_counter (c : Inst) : c.resetRegs.counter = 0 := rfl

@[simp] theorem resetRegs_ctrExh (c : Inst) : c.resetRegs.ctrExh = false := rfl

/-- R302: the logical counter is zero, both COUNTER and its high bit CTR_EXH. -/
theorem ctr33_resetRegs (c : Inst) : ctr33 c.resetRegs = 0 := by
  simp [ctr33]

theorem regRead_resetRegs_regOffset {r : Reg} (hr : r ≠ .id) (c : Inst) : regRead (regOffset r) c.resetRegs = 0 := by
  unfold regRead
  rw [regAt_regOffset]
  cases r with
  | id => exact absurd rfl hr
  | ctrl => exact ctrlWord_resetRegs c
  | status => exact statusWord_resetRegs c
  | nonce j => exact Vector.getElem_replicate j.isLt
  | tag k => exact Vector.getElem_replicate k.isLt
  | _ => rfl

/-- R301: ID is the only offset that reads anything else than zero. -/
theorem regRead_resetRegs {off : Nat} (h : off ≠ regOffset .id) (c : Inst) : regRead off c.resetRegs = 0 := by
  cases hr : regAt off with
  | none => exact regRead_of_reserved hr _
  | some r =>
    obtain rfl := regAt_eq_some hr
    exact regRead_resetRegs_regOffset (ne_of_apply_ne regOffset h) c

/-- Settles O53: the reads of R301 register by register; the hidden state of R302 stands in `Inst.reset`. -/
theorem resetGivesEveryRegisterItsValue : Obligations.ResetGivesEveryRegisterItsValue := by
  intro s
  rw [resetInst_core]
  exact ⟨rfl, fun _ h => regRead_resetRegs h s.core, resetRegs_key s.core, rfl, rfl, ctr33_resetRegs s.core,
    irqLevel_resetRegs s.core, rfl, rfl, rfl, rfl⟩

end Sys2Proof.Machine
end

section
/-! Command words (30_encoding.md R90, R91, R94): decoding is the inverse of encoding, and every other word is rejected
under the name of its defect. -/

namespace Sys2Proof.Machine

theorem decode_eq_ok_iff (w : Word) (i : Instr) : decode w = .ok i ↔ w = encode i :=
  ⟨eq_encode_of_decode, fun h => h ▸ decode_encode i⟩

/-- R94: the RSVD field alone decides the one defect. -/
theorem decode_eq_reservedBits_iff (w : Word) : decode w = .error .reservedBits ↔ 2 ^ 8 ≤ w.toNat := by
  rw [← not_lt, ← rsvdOf_eq_zero_iff]
  unfold decode
  split
  · next hrsvd =>
    refine iff_of_false ?_ (not_not_intro hrsvd)
    split <;> exact nofun
  · next hrsvd => exact iff_of_true rfl hrsvd

/-- R94: the other defect is the only one left to a word with RSVD zero that is no command's. -/
theorem decode_eq_unassignedOpcode_iff (w : Word) :
    decode w = .error .unassignedOpcode ↔ w.toNat < 2 ^ 8 ∧ ∀ i, w ≠ encode i := by
  rw [← not_le, ← decode_eq_reservedBits_iff]
  constructor
  · intro h
    rw [h]
    refine ⟨nofun, fun i hi => ?_⟩
    rw [← decode_eq_ok_iff, h] at hi
    cases hi
  · rintro ⟨hrsvd, hno⟩
    obtain ⟨e, he⟩ := decode_illegal hno
    cases e with
    | reservedBits => exact absurd he hrsvd
    | unassignedOpcode => exact he

/-- R91: the list of legal words is the list of the commands' words. -/
theorem mem_legalWords_iff (w : Word) : w ∈ legalWords ↔ ∃ i, w = encode i := by
  constructor
  · intro h
    have hmap : legalWords = [Instr.chacha20Block, .chacha20Xor, .poly1305Init, .poly1305Update, .poly1305Finish,
        .poly1305Auth, .aeadEncrypt, .aeadDecrypt, .zeroize].map encode := rfl
    rw [hmap, List.mem_map] at h
    obtain ⟨i, -, hi⟩ := h
    exact ⟨i, hi.symm⟩
  · rintro ⟨i, rfl⟩
    cases i <;> decide

theorem cmdWordWf_iff (w : Word) : cmdWordWf w = true ↔ ∃ i, w = encode i :=
  List.contains_iff_mem.trans (mem_legalWords_iff w)

/-- Settles O1: each word of the map is its command's word. -/
theorem opcodeMapWordsDecode : Obligations.OpcodeMapWordsDecode :=
  ⟨decode_encode .chacha20Block, decode_encode .chacha20Xor, decode_encode .poly1305Init,
    decode_encode .poly1305Update, decode_encode .poly1305Finish, decode_encode .poly1305Auth,
    decode_encode .aeadEncrypt, decode_encode .aeadDecrypt, decode_encode .zeroize⟩

/-- Settles O2: the three outcomes of the decoder, each with the words it is for. -/
theorem decodeAndEncodeAgreeOnEveryWord : Obligations.DecodeAndEncodeAgreeOnEveryWord :=
  ⟨decode_eq_ok_iff, decode_eq_reservedBits_iff, decode_eq_unassignedOpcode_iff, cmdWordWf_iff⟩

end Sys2Proof.Machine
end

section
/-! What every command keeps and what it may write: registers and hidden state (30_encoding.md R93), data memory
(20_memory.md R61, 60_exceptions.md R264) and the completion record (60_exceptions.md R260, R262, R267). -/

namespace Sys2Proof.Machine

/-! ### Registers (R93) -/

/-- What commands keep, with the completion, as one record update. -/
theorem eq_of_kept {s t : State} (h : KeptByCommands s t) (hbusy : t.core.busy = false) (hdone : t.core.done = true) :
    t = { s with mem := t.mem, draws := t.draws, core := { s.core.ended t.core.errcode with
            counter := t.core.counter, ctrExh := t.core.ctrExh, key := t.core.key, tag := t.core.tag,
            ctx := t.core.ctx } } := by
  have hcore : t.core = { s.core.ended t.core.errcode with
      counter := t.core.counter, ctrExh := t.core.ctrExh, key := t.core.key, tag := t.core.tag, ctx := t.core.ctx } := by
    rw [Inst.ended, ← h.base, ← h.held, ← h.irqEn, ← h.cmd, ← h.overrun, ← h.nonce, ← h.src, ← h.dst, ← h.len, ← h.aad,
      ← h.aadlen, ← h.claimReads, ← h.claimWrites, ← hbusy, ← hdone]
  rw [← hcore, ← h.params, ← h.before, ← h.after, ← h.host, ← h.turns]

/-- The registers written and the hidden state, command by command. -/
theorem exec_registers {i : Instr} {s t : State} (h : exec i s = .next t) :
    (i ≠ .chacha20Xor → t.core.counter = s.core.counter ∧ t.core.ctrExh = s.core.ctrExh) ∧
    (i ≠ .zeroize → t.core.key = s.core.key) ∧
    (i ∉ [.poly1305Finish, .poly1305Auth, .aeadEncrypt, .zeroize] → t.core.tag = s.core.tag) ∧
    (i ∈ [.chacha20Block, .chacha20Xor] → t.core.ctx = s.core.ctx) := by
  have notChacha {l : List Instr} (hi : i ∈ l) (hl : ∀ j ∈ l, j ∉ [Instr.chacha20Block, .chacha20Xor]) :
      i ∉ [Instr.chacha20Block, .chacha20Xor] := hl i hi
  rcases exec_shapes h with ⟨_, -, rfl⟩ | ⟨hi, rfl⟩ | ⟨rfl, rfl⟩ | ⟨_, -, -, rfl⟩ | ⟨_, hi, -, rfl⟩ |
    ⟨_, -, -, -, rfl⟩ | ⟨_, _, rfl, -, -, -, rfl⟩ | ⟨rfl, rfl⟩ | ⟨_, rfl, -, rfl⟩ | ⟨_, hi, rfl⟩ |
    ⟨_, _, rfl, -, -, rfl⟩ | ⟨_, rfl, -, -, rfl⟩ | ⟨rfl, rfl⟩
  · exact ⟨fun _ => ⟨rfl, rfl⟩, fun _ => rfl, fun _ => rfl, fun _ => rfl⟩
  · exact ⟨fun _ => ⟨rfl, rfl⟩, fun _ => rfl, fun _ => rfl, fun hc => absurd hc (notChacha hi (by decide))⟩
  · exact ⟨fun _ => ⟨rfl, rfl⟩, fun _ => rfl, fun _ => rfl, fun hc => absurd hc (by decide)⟩
  · exact ⟨fun _ => ⟨rfl, rfl⟩, fun _ => rfl, fun _ => rfl, fun _ => rfl⟩
  · exact ⟨fun _ => ⟨rfl, rfl⟩, fun _ => rfl, fun _ => rfl, fun hc => absurd hc (notChacha hi (by decide))⟩
  · exact ⟨fun _ => ⟨rfl, rfl⟩, fun _ => rfl, fun _ => rfl, fun _ => rfl⟩
  · exact ⟨fun hne => absurd rfl hne, fun _ => rfl, fun _ => rfl, fun _ => rfl⟩
  · exact ⟨fun _ => ⟨rfl, rfl⟩, fun _ => rfl, fun _ => rfl, fun hc => absurd hc (by decide)⟩
  · exact ⟨fun _ => ⟨rfl, rfl⟩, fun _ => rfl, fun _ => rfl, fun hc => absurd hc (by decide)⟩
  · exact ⟨fun _ => ⟨rfl, rfl⟩, fun _ => rfl, fun hn => (hn (List.mem_append_left [Instr.aeadEncrypt, .zeroize] hi)).elim,
      fun hc => absurd hc (notChacha hi (by decide))⟩
  · exact ⟨fun _ => ⟨rfl, rfl⟩, fun _ => rfl, fun hn => absurd (by decide) hn, fun hc => absurd hc (by decide)⟩
  · exact ⟨fun _ => ⟨rfl, rfl⟩, fun _ => rfl, fun _ => rfl, fun hc => absurd hc (by decide)⟩
  · exact ⟨fun _ => ⟨rfl, rfl⟩, fun hne => absurd rfl hne, fun hn => absurd (by decide) hn,
      fun hc => absurd hc (by decide)⟩

/-- Settles O15: the frame of all commands, then the registers each of them writes. -/
theorem commandsWriteOnlyTheirRegisters : Obligations.CommandsWriteOnlyTheirRegisters := by
  intro i s t h
  obtain ⟨hbusy, hdone, -⟩ := exec_completed h
  exact ⟨eq_of_kept (exec_kept h) hbusy hdone, exec_registers h⟩

/-! ### Data memory (20_memory.md R61, 60_exceptions.md R264) -/

/-- What a command does to data memory: nothing; or the admitted bytes of its write range take free values; or its result
stands in its write range, which is then admitted. -/
theorem exec_mem {i : Instr} {s t : State} (h : exec i s = .next t) :
    t.mem = s.mem ∨
    (∃ n, writeRanges i s.core = [dstRange s.core n] ∧
      t.mem = freeBytes s.params s.mem s.draws (r64 s.core.dst) n) ∨
    ∃ v, writeRanges i s.core = [dstRange s.core v.length] ∧ admitted s.params (r64 s.core.dst) v.length = true ∧
      t.mem = writeBytes s.mem (r64 s.core.dst) v := by
  rcases exec_shapes h with ⟨_, -, rfl⟩ | ⟨-, rfl⟩ | ⟨-, rfl⟩ | ⟨n, -, hw, rfl⟩ | ⟨n, -, hw, rfl⟩ |
    ⟨v, -, hw, hadm, rfl⟩ | ⟨v, _, -, hw, hadm, -, rfl⟩ | ⟨-, rfl⟩ | ⟨_, -, -, rfl⟩ | ⟨_, -, rfl⟩ |
    ⟨v, _, -, hw, hadm, rfl⟩ | ⟨v, -, hw, hadm, rfl⟩ | ⟨-, rfl⟩
  · exact .inl rfl
  · exact .inl rfl
  · exact .inl rfl
  · exact .inr (.inl ⟨n, hw, rfl⟩)
  · exact .inr (.inl ⟨n, hw, rfl⟩)
  · exact .inr (.inr ⟨v, hw, hadm, rfl⟩)
  · exact .inr (.inr ⟨v, hw, hadm, rfl⟩)
  · exact .inl rfl
  · exact .inl rfl
  · exact .inl rfl
  · exact .inr (.inr ⟨v, hw, hadm, rfl⟩)
  · exact .inr (.inr ⟨v, hw, hadm, rfl⟩)
  · exact .inl rfl

/-- A byte string written to an admitted range changes no byte that is not admitted. -/
theorem readByte_writeBytes_notAdmitted {p : Params} {m : Memory} {a x : Nat} {v : List Byte}
    (hadm : admitted p a v.length = true) (hx : memAdmit p x = false) :
    readByte (writeBytes m a v) x = readByte m x := by
  refine readByte_writeBytes_outside m a v x ?_
  by_contra hin
  rw [memAdmit_of_admitted hadm (by omega) (by omega)] at hx
  cases hx

/-- Settles O16: free values and results alike stay within the write range and within the admitted bytes. -/
theorem commandsWriteOnlyTheirWriteRange : Obligations.CommandsWriteOnlyTheirWriteRange := by
  intro i s t h x hx
  rcases exec_mem h with hmem | ⟨n, hw, hmem⟩ | ⟨v, hw, hadm, hmem⟩ <;> rw [hmem]
  · rw [hw, List.forall_mem_singleton, or_assoc] at hx
    exact readByte_freeBytes hx
  · rw [hw, List.forall_mem_singleton] at hx
    rcases hx with hout | hnot
    · exact readByte_writeBytes_outside _ _ _ _ hout
    · exact readByte_writeBytes_notAdmitted hadm hnot

/-! ### The completion record (60_exceptions.md R260 to R262, R267) -/

/-- The error number of a completed state is one of those its code's number is one of. -/
theorem errcode_mem {t u : State} {e : ErrCode} {l : List (BitVec 4)} (h : t = u.complete e) (he : errNumber e ∈ l) :
    t.core.errcode ∈ l := by
  subst h
  exact he

/-- No reserved error number (R260). -/
theorem errNumber_toNat_le (e : ErrCode) : (errNumber e).toNat ≤ 8 := by cases e <;> decide

theorem chacha20BlockRule_errcode (s : State) : (chacha20BlockRule s).core.errcode ∈ ([0, 2, 4, 8] : List (BitVec 4)) := by
  rcases chacha20Block_cases s with ⟨-, h⟩ | ⟨-, -, h⟩ | ⟨-, -, -, h⟩ | ⟨-, -, -, h⟩ <;>
    exact errcode_mem h (by decide)

theorem chacha20XorRule_errcode (s : State) :
    (chacha20XorRule s).core.errcode ∈ ([0, 2, 4, 5, 8] : List (BitVec 4)) := by
  rcases chacha20Xor_cases s with ⟨-, h⟩ | ⟨-, -, h⟩ | ⟨-, -, -, h⟩ | ⟨-, -, -, -, h⟩ | ⟨-, -, -, -, h⟩ <;>
    exact errcode_mem h (by decide)

theorem poly1305UpdateRule_errcode (s : State) :
    (poly1305UpdateRule s).core.errcode ∈ ([0, 6, 4, 8] : List (BitVec 4)) := by
  rcases poly1305Update_cases s with ⟨-, h⟩ | ⟨-, -, h⟩ | ⟨-, -, -, h⟩ | ⟨-, -, -, h⟩ <;>
    exact errcode_mem h (by decide)

theorem poly1305FinishRule_errcode (s : State) : (poly1305FinishRule s).core.errcode ∈ ([0, 6] : List (BitVec 4)) := by
  rcases poly1305Finish_cases s with ⟨-, h⟩ | ⟨-, h⟩ <;>
    exact errcode_mem h (by decide)

theorem poly1305AuthRule_errcode (s : State) : (poly1305AuthRule s).core.errcode ∈ ([0, 4, 8] : List (BitVec 4)) := by
  rcases poly1305Auth_cases s with ⟨-, h⟩ | ⟨-, -, h⟩ | ⟨-, -, h⟩ <;>
    exact errcode_mem h (by decide)

theorem aeadEncryptRule_errcode (s : State) :
    (aeadEncryptRule s).core.errcode ∈ ([0, 3, 4, 5, 8] : List (BitVec 4)) := by
  rcases aeadEncrypt_cases s with ⟨-, h⟩ | ⟨-, -, h⟩ | ⟨-, -, -, h⟩ | ⟨-, -, -, -, h⟩ | ⟨-, -, -, -, h⟩ <;>
    exact errcode_mem h (by decide)

theorem aeadDecryptRule_errcode (s : State) :
    (aeadDecryptRule s).core.errcode ∈ ([0, 3, 4, 5, 7, 8] : List (BitVec 4)) := by
  rcases aeadDecrypt_cases s with ⟨-, h⟩ | ⟨-, -, h⟩ | ⟨-, -, -, h⟩ | ⟨-, -, -, -, h⟩ | ⟨-, -, -, -, -, h⟩ |
    ⟨-, -, -, -, -, -, h⟩ | ⟨-, -, -, -, -, -, h⟩ <;>
    exact errcode_mem h (by decide)

/-- Settles O18, command by command. -/
theorem commandsReportOnlyTheirErrors : Obligations.CommandsReportOnlyTheirErrors := by
  intro i s t h
  cases i <;> obtain rfl := Host.Outcome.next.inj h
  case chacha20Block => exact chacha20BlockRule_errcode s
  case chacha20Xor => exact chacha20XorRule_errcode s
  case poly1305Init => exact List.mem_singleton.mpr rfl
  case poly1305Update => exact poly1305UpdateRule_errcode s
  case poly1305Finish => exact poly1305FinishRule_errcode s
  case poly1305Auth => exact poly1305AuthRule_errcode s
  case aeadEncrypt => exact aeadEncryptRule_errcode s
  case aeadDecrypt => exact aeadDecryptRule_errcode s
  case zeroize => exact List.mem_singleton.mpr rfl

/-- A failure other than BUS_ERROR: one of the early checks, before anything was touched, or AUTH_FAIL. -/
theorem exec_failure {i : Instr} {s t : State} (h : exec i s = .next t) (h0 : t.core.errcode ≠ 0)
    (h8 : t.core.errcode ≠ 8) :
    (∃ e, e ∈ [ErrCode.counterRange, .length, .address, .overlap, .noContext] ∧ t = s.complete e) ∨
      t = s.closeCtx.complete .authFail := by
  rcases exec_shapes h with hearly | ⟨-, rfl⟩ | ⟨-, hauth⟩ | ⟨_, -, -, rfl⟩ | ⟨_, -, -, rfl⟩ | ⟨_, -, -, -, rfl⟩ |
    ⟨_, _, -, -, -, -, rfl⟩ | ⟨-, rfl⟩ | ⟨_, -, -, rfl⟩ | ⟨_, -, rfl⟩ | ⟨_, _, -, -, -, rfl⟩ | ⟨_, -, -, -, rfl⟩ |
    ⟨-, rfl⟩
  · exact .inl hearly
  · exact absurd rfl h8
  · exact .inr hauth
  · exact absurd rfl h8
  · exact absurd rfl h8
  all_goals exact absurd rfl h0

/-- Settles O19: an early failure is the completion alone; AUTH_FAIL has closed the context too. -/
theorem failuresButBusErrorHaveNoEffect : Obligations.FailuresButBusErrorHaveNoEffect := by
  intro i s t h h0 h8
  rcases exec_failure h h0 h8 with ⟨e, he, rfl⟩ | rfl
  · have hcode : (s.complete e).core.errcode ≠ 7 := by
      refine mt (complete_errcode_iff s e .authFail).mp ?_
      rintro rfl
      exact absurd he (by decide)
    exact ⟨rfl, fun _ => rfl, fun h7 => absurd h7 hcode⟩
  · exact ⟨rfl, fun h7 => absurd rfl h7, fun _ => rfl⟩

/-- Settles O42: IRQ is DONE and IRQ_EN; a completion sets the one and keeps the other, and the three writes follow the
definitions of theirs. -/
theorem interruptFollowsDoneAndEnable : Obligations.InterruptFollowsDoneAndEnable := by
  refine ⟨fun i s t h => ?_, fun c v hv => ?_, fun c v => rfl, fun c hdone v => ?_⟩
  · obtain ⟨-, hdone, -⟩ := exec_completed h
    rw [irqLevel, hdone, Bool.true_and, (exec_kept h).irqEn]
  · have hdone : (writeStatus v c).done = false := by
      rw [statusWriteClearsItsFields c v, hv]
      exact Bool.and_false _
    change irqLevel (writeStatus v c) = false
    rw [irqLevel, hdone, Bool.false_and]
  · have hreg : regWrite 0x004 v c = { c with irqEn := v.getLsbD 0 } := rfl
    rw [hreg, irqLevel, hdone, Bool.true_and]
    exact ⟨rfl, rfl⟩

end Sys2Proof.Machine
end

section
/-! What a turn does (43_control.md R232, 30_encoding.md R95; the schedule is assumption 1): the focus, the engine's turn
and the host's turn, and what step makes of each. -/

namespace Sys2Proof.Machine

/-! ### Focus -/

/-- Bringing an instance into focus changes which instance that is, and nothing else. -/
theorem focus_eq {s u : State} {k : Nat} (h : s.focus k = some u) :
    u = { s with before := u.before, core := u.core, after := u.after } := by
  obtain ⟨-, hu, -⟩ := focus_eq_some h
  rw [hu]

theorem focus_eq_none {s : State} {k : Nat} (h : s.insts.length ≤ k) : s.focus k = none := by
  simp only [State.focus, List.drop_eq_nil_iff.mpr h]

theorem withInst_some {s u : State} {k : Nat} (h : s.focus k = some u)
    (f : State → Host.Outcome State Fault Refusal) : withInst k s f = f u := by
  simp only [withInst, h]

theorem withInst_none {s : State} {k : Nat} (h : s.insts.length ≤ k) (f : State → Host.Outcome State Fault Refusal) :
    withInst k s f = .refused .noSuchInstance := by
  simp only [withInst, focus_eq_none h]

theorem withInst_next {s t : State} {k : Nat} {f : State → Host.Outcome State Fault Refusal}
    (h : withInst k s f = .next t) : ∃ u, s.focus k = some u ∧ f u = .next t := by
  cases hu : s.focus k with
  | none => simp only [withInst, hu, reduceCtorEq] at h
  | some u => exact ⟨u, rfl, withInst_some hu f ▸ h⟩

theorem focus_before_length {s u : State} {k : Nat} (h : s.focus k = some u) : u.before.length = k := by
  obtain ⟨hget, hu, -⟩ := focus_eq_some h
  obtain ⟨hlt, -⟩ := List.getElem?_eq_some_iff.mp hget
  rw [hu]
  exact List.length_take_of_le hlt.le

/-- The instances with the one in focus replaced. -/
theorem insts_set_core (s : State) (c : Inst) : s.before ++ c :: s.after = s.insts.set s.before.length c := by
  simp [State.insts]

theorem insts_of_kept {s t : State} (h : KeptByCommands s t) : t.insts = s.insts.set s.before.length t.core := by
  rw [← insts_set_core, State.insts, h.before, h.after]

/-! ### The scheduled turn -/

theorem step_scheduled {s : State} {t : Turn} {rest : List Turn} (h : s.turns = t :: rest) :
    step s = runTurn t { s with turns := rest } := by
  simp only [step, nextTurn, h]

theorem step_unscheduled {s : State} (h : s.turns = []) : step s = unscheduledTurn s := by
  simp only [step, nextTurn, h]

/-! ### The host's turn -/

theorem hostTurn_done {s : State} (h : s.host.prog.length ≤ s.host.pos) : hostTurn s = .next s := by
  simp only [hostTurn, List.drop_eq_nil_iff.mpr h]

theorem hostTurn_stmt {s : State} {st : HostStmt} (h : s.host.prog[s.host.pos]? = some st) :
    hostTurn s = runStmt st (s.setPos (s.host.pos + 1)) := by
  obtain ⟨hlt, rfl⟩ := List.getElem?_eq_some_iff.mp h
  simp only [hostTurn, List.drop_eq_getElem_cons hlt]

theorem runBnz_fallsThrough {s : State} {x : Nat} {mask : Word} (l : Nat) (h : getVar s.host x &&& mask = 0) :
    runBnz x mask l s = .next s := if_pos h

theorem runBnz_taken {s : State} {x l n : Nat} {mask : Word} (h : getVar s.host x &&& mask ≠ 0)
    (hl : labelPos l s.host.prog = some n) : runBnz x mask l s = .next (s.setPos n) := by
  rw [runBnz, if_neg h, hl]

theorem runBnz_noSuchLabel {s : State} {x l : Nat} {mask : Word} (h : getVar s.host x &&& mask ≠ 0)
    (hl : labelPos l s.host.prog = none) : runBnz x mask l s = .refused .noSuchLabel := by
  rw [runBnz, if_neg h, hl]

/-- R95: all a branch does. -/
theorem runBnz_cases (s : State) (x : Nat) (mask : Word) (l : Nat) :
    (getVar s.host x &&& mask = 0 → runBnz x mask l s = .next s) ∧
    (getVar s.host x &&& mask ≠ 0 →
      (∀ n, s.host.prog[n]? = some (.label l) → (∀ m, m < n → s.host.prog[m]? ≠ some (.label l)) →
        runBnz x mask l s = .next (s.setPos n)) ∧
      (.label l ∉ s.host.prog → runBnz x mask l s = .refused .noSuchLabel)) :=
  ⟨runBnz_fallsThrough l, fun h =>
    ⟨fun _ hn hfirst => runBnz_taken h (labelPos_first hn hfirst), fun hno => runBnz_noSuchLabel h (labelPos_none hno)⟩⟩

/-! ### The engine's turn -/

theorem engineTurn_completes {s : State} (hbusy : s.core.busy = true) : ∃ t, engineTurn s = .next t ∧
    t.core.busy = false ∧ t.core.done = true ∧ t.core.errcode.toNat ≤ 8 := by
  rcases engineTurn_cases s with ⟨hidle, -⟩ | ⟨-, h⟩ | ⟨i, -, -, h⟩
  · rw [hbusy] at hidle
    cases hidle
  · exact ⟨_, h, rfl, rfl, errNumber_toNat_le .illegalCmd⟩
  · obtain ⟨t, ht, -⟩ := exec_next i s
    exact ⟨t, h.trans ht, exec_completed ht⟩

/-- Settles O5: an illegal word and every command end completed, with IRQ_EN and CMD kept. -/
theorem everyEngineStepCompletes : Obligations.EveryEngineStepCompletes := by
  intro s hbusy
  obtain ⟨t, ht, hidle, hdone, hcode⟩ := engineTurn_completes hbusy
  have hkept := engineTurn_kept ht
  exact ⟨t, ht, hidle, hdone, by rw [irqLevel, hdone, Bool.true_and], hkept.irqEn, hkept.cmd, hcode⟩

/-- Settles O20: the engine's turn keeps the instances before and after the one in focus, which is number `k`. -/
theorem engineTurnChangesNoOtherInstance : Obligations.EngineTurnChangesNoOtherInstance := by
  intro s t k rest hturn hstep
  rw [step_scheduled hturn] at hstep
  obtain ⟨u, hu, ht⟩ := withInst_next hstep
  have hinsts : t.insts = s.insts.set k t.core := by
    rw [insts_of_kept (engineTurn_kept ht), focus_insts hu, focus_before_length hu]
    rfl
  rw [hinsts]
  exact ⟨List.length_set, fun j hj => List.getElem?_set_ne hj.symm⟩

/-! ### Every turn -/

/-- Settles O3: each kind of turn by the lemma of its own. -/
theorem stepRunsThePendingCommand : Obligations.StepRunsThePendingCommand := by
  intro s rest r
  refine ⟨fun k u hu => ?_, fun k hk => focus_isSome hk, fun k hk hturn => ?_,
    fun a hturn => step_scheduled hturn, fun a v hturn => step_scheduled hturn,
    fun hturn => ⟨fun hpos => ?_, fun st hst => ?_⟩⟩
  · obtain ⟨hget, -, hinsts⟩ := focus_eq_some hu
    refine ⟨hget, hinsts, focus_eq hu, fun hturn => ?_, fun hturn => ?_, fun hturn => ?_⟩
    · rw [step_engine hturn hu]
      exact ⟨fun hbusy i hi => engineTurn_ok hbusy hi, fun hbusy hno => engineTurn_illegal hbusy hno,
        fun hidle => engineTurn_idle hidle⟩
    · exact (step_scheduled hturn).trans (withInst_some hu _)
    · exact (step_scheduled hturn).trans (withInst_some hu _)
  · have hrefused (f : State → Host.Outcome State Fault Refusal) : withInst k r f = .refused .noSuchInstance :=
      withInst_none (s := r) hk f
    simp only [List.mem_cons, List.not_mem_nil, or_false] at hturn
    rcases hturn with hturn | hturn | hturn <;> exact (step_scheduled hturn).trans (hrefused _)
  · exact (step_scheduled hturn).trans (hostTurn_done hpos)
  · intro p q
    have hstep : step s = runStmt st q := (step_scheduled hturn).trans (hostTurn_stmt hst)
    rw [hstep]
    refine ⟨?_, ?_, ?_, ?_, ?_, ?_, ?_⟩
    · rintro addr bytes v rfl
      rfl
    · rintro addr bytes x rfl
      rfl
    · rintro a x rfl
      rfl
    · rintro a v rfl
      rfl
    · rintro k x rfl
      rfl
    · rintro l rfl
      rfl
    · rintro x mask l rfl
      exact runBnz_cases q x mask l

/-- Settles O4: the pending engine in focus comes first; a word made pending is pending in focus; with nothing pending the
host's turn is left, which is none at the end of its program. -/
theorem unscheduledStepRunsThePendingCommand : Obligations.UnscheduledStepRunsThePendingCommand := by
  have runs {s : State} {i : Instr} (hturns : s.turns = []) (hbusy : s.core.busy = true)
      (hcmd : decode s.core.cmd = .ok i) : step s = exec i s := by
    rw [step_unscheduled hturns, unscheduledTurn, if_pos hbusy, engineTurn_ok hbusy hcmd]
  refine ⟨fun s i => runs, fun s i => runs rfl rfl ?_, fun s hturns hidle hpos => ?_⟩
  · have hword : BitVec.ofNat 32 ((encode i).toNat % 2 ^ 32) = encode i := by
      rw [Nat.mod_eq_of_lt (encode i).isLt, BitVec.ofNat_toNat, BitVec.setWidth_eq]
    rw [State.withFetchWord, hword]
    exact decode_encode i
  · have hcore : ¬s.core.busy = true := by simp [hidle s.core (mem_insts_core s)]
    rw [step_unscheduled hturns, unscheduledTurn, if_neg hcore, firstBusy_eq_none hidle]
    exact hostTurn_done hpos

end Sys2Proof.Machine
end

section
/-! All a step can do, said once: a step brings an instance into focus and makes one move there (60_exceptions.md R269).
What every step keeps then follows move by move. -/

namespace Sys2Proof.Machine

/-! ### The moves -/

/-- The same platform, instances and data memory; the focus, the host agent and the turns may differ. -/
structure SameMachine (s u : State) : Prop where
  params : u.params = s.params
  insts  : u.insts = s.insts
  mem    : u.mem = s.mem

theorem sameMachine_refl (s : State) : SameMachine s s := ⟨rfl, rfl, rfl⟩

theorem SameMachine.trans {s u v : State} (h : SameMachine s u) (h' : SameMachine u v) : SameMachine s v :=
  ⟨h'.params.trans h.params, h'.insts.trans h.insts, h'.mem.trans h.mem⟩

theorem sameMachine_focus {s u : State} {k : Nat} (h : s.focus k = some u) : SameMachine s u :=
  ⟨focus_params h, focus_insts h, focus_mem h⟩

theorem sameMachine_focusAddr {s u : State} {addr : Nat} (h : s.focusAddr addr = some u) : SameMachine s u := by
  obtain ⟨k, hk⟩ := focusAddr_eq_some h
  exact sameMachine_focus hk

theorem sameMachine_setVar (s : State) (x : Nat) (v : Word) : SameMachine s (s.setVar x v) := ⟨rfl, rfl, rfl⟩

theorem sameMachine_setPos (s : State) (n : Nat) : SameMachine s (s.setPos n) := ⟨rfl, rfl, rfl⟩

/-- One agent's move at the instance in focus. -/
inductive Move (s : State) : State → Prop
  /-- Nothing of the machine changes. -/
  | idle : Move s s
  /-- A register write, neither to CMD nor to a CORE held in reset (43_control.md R236). -/
  | register (off : Nat) (v : Word) (hheld : s.core.held = false) (hcmd : regAt off ≠ some .cmd) :
      Move s (s.setCore (regWrite off v s.core))
  /-- A write to CMD, not of a CORE held in reset (R231). -/
  | command (v : Word) (t : State) (hheld : s.core.held = false) (h : writeCmd v s = .next t) : Move s t
  /-- The host observes that no command is pending (20_memory.md R76). -/
  | observe (h : s.core.busy = false ∨ irqLevel s.core = true) : Move s (s.setCore (unclaim s.core))
  /-- A byte of data memory stored (20_memory.md R60). -/
  | store (a : Nat) (v : Byte) (hadm : memAdmit s.params a = true) : Move s (s.memWrite a [v])
  /-- The engine's step (43_control.md R232). -/
  | engine (t : State) (h : engineTurn s = .next t) : Move s t
  /-- The reset input asserted (70_reset_and_hazards.md R300). -/
  | resetAsserted : Move s (assertReset s)
  /-- The reset input released (R300). -/
  | resetReleased : Move s (releaseReset s)
  /-- Power lost and back (60_exceptions.md R278). -/
  | poweredUp (cells : List (Nat × BitVec 8)) : Move s (powerUp cells s)

/-- From `s` to `t` there is one move, after a change of focus, host agent and turns. -/
def Moves (s t : State) : Prop := ∃ u, SameMachine s u ∧ Move u t

theorem moves_of_sameMachine {s t : State} (h : SameMachine s t) : Moves s t := ⟨t, h, .idle⟩

theorem Moves.after {s u t : State} (h : Moves u t) (hu : SameMachine s u) : Moves s t := by
  obtain ⟨v, hv, hmove⟩ := h
  exact ⟨v, hu.trans hv, hmove⟩

/-! ### Every step is a move -/

theorem hostRegWrite_moves {off : Nat} {v : Word} {s t : State} (h : hostRegWrite off v s = .next t) : Moves s t := by
  unfold hostRegWrite at h
  split at h
  · obtain rfl := Host.Outcome.next.inj h
    exact moves_of_sameMachine (sameMachine_refl s)
  · next hheld =>
    rw [Bool.not_eq_true] at hheld
    split at h
    · exact ⟨s, sameMachine_refl s, .command v t hheld h⟩
    · next hcmd =>
      obtain rfl := Host.Outcome.next.inj h
      exact ⟨s, sameMachine_refl s, .register off v hheld hcmd⟩

theorem busWrite_moves {addr bytes : Nat} {v : Word} {s t : State} (h : busWrite addr bytes v s = .next t) :
    Moves s t := by
  unfold busWrite at h
  split at h
  · cases h
  · next u hu =>
    split at h
    · exact (hostRegWrite_moves h).after (sameMachine_focusAddr hu)
    · cases h

theorem hostRegRead_moves (off x : Nat) (s : State) : Moves s (hostRegRead off x s) := by
  have hvar := sameMachine_setVar s x (regRead off s.core)
  unfold hostRegRead
  split
  · next hidle => exact ⟨_, hvar, .observe (.inl hidle.2)⟩
  · exact moves_of_sameMachine hvar

theorem busRead_moves {addr bytes x : Nat} {s t : State} (h : busRead addr bytes x s = .next t) : Moves s t := by
  unfold busRead at h
  split at h
  · cases h
  · next u hu =>
    split at h
    · obtain rfl := Host.Outcome.next.inj h
      exact (hostRegRead_moves _ x u).after (sameMachine_focusAddr hu)
    · cases h

/-- A data access goes on only at an admitted byte (20_memory.md R65). -/
theorem dataAccess_next {s t u : State} {a : Nat} (h : dataAccess s a t = .next u) :
    u = t ∧ memAdmit s.params a = true := by
  unfold dataAccess dataAccessStop at h
  split at h
  · cases h
  · cases h
  · next hstop =>
    refine ⟨(Host.Outcome.next.inj h).symm, ?_⟩
    split at hstop
    · cases hstop
    · split at hstop
      · cases hstop
      · next hadm => simpa using hadm

theorem storeByte_moves {a : Nat} {v : Byte} {s t : State} (h : storeByte a v s = .next t) : Moves s t := by
  obtain ⟨rfl, hadm⟩ := dataAccess_next h
  exact ⟨s, sameMachine_refl s, .store a v hadm⟩

theorem loadByte_moves {a x : Nat} {s t : State} (h : loadByte a x s = .next t) : Moves s t := by
  obtain ⟨rfl, -⟩ := dataAccess_next h
  exact moves_of_sameMachine (sameMachine_setVar ..)

theorem probeByte_moves {a : Nat} {s t : State} (h : probeByte a s = .next t) : Moves s t := by
  obtain ⟨rfl, -⟩ := dataAccess_next h
  exact moves_of_sameMachine (sameMachine_refl _)

theorem sampleIrq_moves {k x : Nat} {s t : State} (h : sampleIrq k x s = .next t) : Moves s t := by
  unfold sampleIrq at h
  split at h
  · cases h
  · next u hu =>
    obtain rfl := Host.Outcome.next.inj h
    have hvar (w : Word) : SameMachine s (u.setVar x w) := (sameMachine_focus hu).trans (sameMachine_setVar u x w)
    split
    · next hirq => exact ⟨_, hvar _, .observe (.inr hirq)⟩
    · exact moves_of_sameMachine (hvar _)

theorem runBnz_moves {x l : Nat} {mask : Word} {s t : State} (h : runBnz x mask l s = .next t) : Moves s t := by
  unfold runBnz at h
  split at h
  · obtain rfl := Host.Outcome.next.inj h
    exact moves_of_sameMachine (sameMachine_refl s)
  · split at h
    · obtain rfl := Host.Outcome.next.inj h
      exact moves_of_sameMachine (sameMachine_setPos s _)
    · cases h

theorem runStmt_moves {st : HostStmt} {s t : State} (h : runStmt st s = .next t) : Moves s t := by
  cases st with
  | write addr bytes v => exact busWrite_moves h
  | read addr bytes x => exact busRead_moves h
  | label l =>
    obtain rfl := Host.Outcome.next.inj h
    exact moves_of_sameMachine (sameMachine_refl s)
  | bnz x mask l => exact runBnz_moves h
  | loadByte a x => exact loadByte_moves h
  | storeByte a v => exact storeByte_moves h
  | irq k x => exact sampleIrq_moves h

theorem hostTurn_moves {s t : State} (h : hostTurn s = .next t) : Moves s t := by
  unfold hostTurn at h
  split at h
  · obtain rfl := Host.Outcome.next.inj h
    exact moves_of_sameMachine (sameMachine_refl s)
  · exact (runStmt_moves h).after (sameMachine_setPos s _)

theorem withInst_moves {s t : State} {k : Nat} {f : State → Host.Outcome State Fault Refusal}
    (hf : ∀ u, f u = .next t → Move u t) (h : withInst k s f = .next t) : Moves s t := by
  obtain ⟨u, hu, ht⟩ := withInst_next h
  exact ⟨u, sameMachine_focus hu, hf u ht⟩

theorem runTurn_moves {tn : Turn} {s t : State} (h : runTurn tn s = .next t) : Moves s t := by
  cases tn with
  | host => exact hostTurn_moves h
  | engine k => exact withInst_moves (fun _ hu => .engine t hu) h
  | assertReset k => exact withInst_moves (fun _ hu => Host.Outcome.next.inj hu ▸ .resetAsserted) h
  | releaseReset k => exact withInst_moves (fun _ hu => Host.Outcome.next.inj hu ▸ .resetReleased) h
  | powerUp cells =>
    obtain rfl := Host.Outcome.next.inj h
    exact ⟨s, sameMachine_refl s, .poweredUp cells⟩
  | platformRead a => exact probeByte_moves h
  | platformWrite a v => exact storeByte_moves h

theorem unscheduledTurn_moves {s t : State} (h : unscheduledTurn s = .next t) : Moves s t := by
  unfold unscheduledTurn at h
  split at h
  · exact ⟨s, sameMachine_refl s, .engine t h⟩
  · split at h
    · exact withInst_moves (fun _ hu => .engine t hu) h
    · exact hostTurn_moves h

/-- All a step can do. -/
theorem step_moves {s t : State} (h : step s = .next t) : Moves s t := by
  cases hturns : s.turns with
  | nil => exact unscheduledTurn_moves (step_unscheduled hturns ▸ h)
  | cons tn rest =>
    rw [step_scheduled hturns] at h
    exact (runTurn_moves h).after ⟨rfl, rfl, rfl⟩

end Sys2Proof.Machine
end

section
/-! The canonical form of data memory: equal contents are equal data (20_memory.md R60; the form is the model's own), and
what may stand in it. -/

namespace Sys2Proof.Machine

/-! ### Equal contents -/

theorem readByte_of_not_listed {m : Memory} {x : Nat} (h : ∀ c ∈ m, c.1 ≠ x) : readByte m x = unlistedByte := by
  induction m with
  | nil => rfl
  | cons c m ih =>
    rw [List.forall_mem_cons] at h
    rw [readByte, if_neg h.1, ih h.2]

theorem readByte_cons_self (c : Host.Cell) (m : Memory) : readByte (c :: m) c.1 = c.2 := if_pos rfl

theorem readByte_cons_other {c : Host.Cell} (m : Memory) {x : Nat} (h : c.1 ≠ x) :
    readByte (c :: m) x = readByte m x := if_neg h

/-- A canonical memory taken apart at its first cell. -/
theorem wf_cons_iff (c : Host.Cell) (m : Memory) :
    Memory.wf (c :: m) = true ↔ (∀ d ∈ m, c.1 < d.1) ∧ c.2 ≠ unlistedByte ∧ m.wf = true := by
  rw [Memory_wf_iff, Memory_wf_iff, List.pairwise_cons, List.forall_mem_cons]
  tauto

/-- In a canonical memory nothing is listed below the first cell. -/
theorem readByte_below_head {c : Host.Cell} {m : Memory} {x : Nat} (h : Memory.wf (c :: m) = true) (hx : x < c.1) :
    readByte (c :: m) x = unlistedByte := by
  obtain ⟨hlt, -, -⟩ := (wf_cons_iff c m).mp h
  refine readByte_of_not_listed (List.forall_mem_cons.mpr ⟨hx.ne', fun d hd => (hx.trans (hlt d hd)).ne'⟩)

/-- The first listed address of a canonical memory is the first one that reads anything else than an unlisted byte. -/
theorem head_le_of_reads_alike {c d : Host.Cell} {m m' : Memory} (hm : Memory.wf (c :: m) = true)
    (hm' : Memory.wf (d :: m') = true) (h : ∀ x, readByte (c :: m) x = readByte (d :: m') x) : d.1 ≤ c.1 := by
  obtain ⟨-, hne, -⟩ := (wf_cons_iff c m).mp hm
  by_contra hlt
  refine hne ?_
  rw [← readByte_cons_self c m, h, readByte_below_head hm' (not_le.mp hlt)]

theorem not_reads_empty {c : Host.Cell} {m : Memory} (hm : Memory.wf (c :: m) = true) :
    ¬∀ x, readByte (c :: m) x = unlistedByte := by
  obtain ⟨-, hne, -⟩ := (wf_cons_iff c m).mp hm
  exact fun h => hne (readByte_cons_self c m ▸ h c.1)

theorem memory_ext {m m' : Memory} (hm : m.wf = true) (hm' : m'.wf = true)
    (h : ∀ x, readByte m x = readByte m' x) : m = m' := by
  induction m generalizing m' with
  | nil =>
    cases m' with
    | nil => rfl
    | cons d m' => exact absurd (fun x => (h x).symm) (not_reads_empty hm')
  | cons c m ih =>
    cases m' with
    | nil => exact absurd h (not_reads_empty hm)
    | cons d m' =>
      have haddr : c.1 = d.1 :=
        le_antisymm (head_le_of_reads_alike hm' hm fun x => (h x).symm) (head_le_of_reads_alike hm hm' h)
      have hbyte : c.2 = d.2 := by
        rw [← readByte_cons_self c m, h, haddr, readByte_cons_self]
      obtain ⟨hlt, -, hwf⟩ := (wf_cons_iff c m).mp hm
      obtain ⟨hlt', -, hwf'⟩ := (wf_cons_iff d m').mp hm'
      have htail : m = m' := by
        refine ih hwf hwf' fun x => ?_
        by_cases hx : c.1 = x
        · rw [readByte_of_not_listed fun e he => hx ▸ (hlt e he).ne',
            readByte_of_not_listed fun e he => hx ▸ haddr ▸ (hlt' e he).ne']
        · rw [← readByte_cons_other m hx, h, readByte_cons_other m' (haddr ▸ hx)]
      rw [htail, Prod.ext haddr hbyte]

/-- Settles O60: reads and writes byte by byte, and the first cells of two memories that read alike compared. -/
theorem memoryIsCanonical : Obligations.MemoryIsCanonical := by
  refine ⟨fun m a n => ⟨readBytes_length m a n, fun i hi => ?_⟩, wrote_writeBytes, fun m a v hm => writeBytes_wf hm a v,
    fun m m' hm hm' h => memory_ext hm hm' h⟩
  have hlt : i < (readBytes m a n).length := by rwa [readBytes_length]
  rw [List.getElem?_eq_getElem hlt, readBytes_getElem]

/-! ### Canonical and at admitted addresses only -/

/-- Data memory as the machine's invariant asks it: canonical, with nothing at an address that is not admitted. -/
def MemoryOk (p : Params) (m : Memory) : Prop := m.wf = true ∧ ∀ cell ∈ m, memAdmit p cell.1 = true

theorem memoryOk_writeByte {p : Params} {m : Memory} {a : Nat} (h : MemoryOk p m) (ha : memAdmit p a = true) (b : Byte) :
    MemoryOk p (writeByte m a b) := by
  refine ⟨writeByte_wf h.1 a b, fun cell hcell => ?_⟩
  rcases mem_writeByte hcell with haddr | hold
  · exact haddr ▸ ha
  · exact h.2 cell hold

theorem memoryOk_writeBytes {p : Params} {m : Memory} {a : Nat} {v : List Byte} (h : MemoryOk p m)
    (hadm : admitted p a v.length = true) : MemoryOk p (writeBytes m a v) := by
  refine ⟨writeBytes_wf h.1 a v, fun cell hcell => ?_⟩
  rcases mem_writeBytes hcell with ⟨hlo, hhi⟩ | hold
  · exact memAdmit_of_admitted hadm hlo hhi
  · exact h.2 cell hold

theorem memoryOk_freeBytes {p : Params} {m : Memory} (h : MemoryOk p m) (d a n : Nat) :
    MemoryOk p (freeBytes p m d a n) := by
  refine ⟨freeBytes_wf p h.1 d a n, fun cell hcell => ?_⟩
  rcases mem_freeBytes hcell with hadm | hold
  · exact hadm
  · exact h.2 cell hold

theorem memoryOk_loadCells {p : Params} {m : Memory} (h : MemoryOk p m) (cells : List (Nat × BitVec 8)) :
    MemoryOk p (loadCells p cells m) := by
  induction cells generalizing m with
  | nil => exact h
  | cons c cells ih =>
    refine ih ?_
    split
    · next hadm => exact memoryOk_writeByte h hadm _
    · exact h

theorem memoryOk_nil (p : Params) : MemoryOk p [] := ⟨rfl, nofun⟩

end Sys2Proof.Machine
end

section
/-! Reset (70_reset_and_hazards.md R303, R304) and power-up (60_exceptions.md R278): what they leave of the machine and of
data memory. -/

namespace Sys2Proof.Machine

/-! ### Reset -/

/-- The free bytes of a reset change data memory and the draw counter only. -/
theorem scribbleAll_eq (xs : List Range) (s : State) :
    scribbleAll xs s = { s with mem := (scribbleAll xs s).mem, draws := (scribbleAll xs s).draws } := by
  induction xs generalizing s with
  | nil => rfl
  | cons x xs ih =>
    rw [scribbleAll, ih]
    rfl

theorem readByte_scribbleAll {xs : List Range} {s : State} {x : Nat}
    (h : (∀ r ∈ xs, x < r.addr ∨ r.addr + r.len ≤ x) ∨ memAdmit s.params x = false) :
    readByte (scribbleAll xs s).mem x = readByte s.mem x := by
  induction xs generalizing s with
  | nil => rfl
  | cons r xs ih =>
    rw [List.forall_mem_cons] at h
    rw [scribbleAll, ih (s := s.scribble r.addr r.len) (h.imp_left And.right)]
    refine readByte_freeBytes ?_
    rcases h with ⟨hhead, -⟩ | hnot
    · exact hhead.imp_right .inl
    · exact .inr (.inr hnot)

theorem memoryOk_scribbleAll {xs : List Range} {s : State} (h : MemoryOk s.params s.mem) :
    MemoryOk s.params (scribbleAll xs s).mem := by
  induction xs generalizing s with
  | nil => exact h
  | cons x xs ih => exact ih (s := s.scribble x.addr x.len) (memoryOk_freeBytes h _ _ _)

theorem resetInst_of_idle {s : State} (h : s.core.busy = false) : resetInst s = s.setCore s.core.resetRegs := by
  simp only [resetInst, h, Bool.false_eq_true, if_false]

theorem resetInst_of_busy {s : State} (h : s.core.busy = true) :
    resetInst s = (scribbleAll (wordWriteRanges s.core.cmd s.core) s).setCore s.core.resetRegs := by
  simp only [resetInst, h, if_true]

/-- R304: a reset changes its instance, data memory and the draw counter only. -/
theorem resetInst_eq (s : State) :
    resetInst s = { s with core := s.core.resetRegs, mem := (resetInst s).mem, draws := (resetInst s).draws } := by
  cases hbusy : s.core.busy with
  | false =>
    rw [resetInst_of_idle hbusy]
    rfl
  | true =>
    rw [resetInst_of_busy hbusy, scribbleAll_eq]
    rfl

@[simp] theorem resetInst_params (s : State) : (resetInst s).params = s.params := by rw [resetInst_eq]
@[simp] theorem resetInst_before (s : State) : (resetInst s).before = s.before := by rw [resetInst_eq]
@[simp] theorem resetInst_after (s : State) : (resetInst s).after = s.after := by rw [resetInst_eq]

/-- R303: what a reset leaves in data memory. -/
theorem readByte_resetInst {s : State} {x : Nat} (hbusy : s.core.busy = true)
    (h : (∀ r ∈ wordWriteRanges s.core.cmd s.core, x < r.addr ∨ r.addr + r.len ≤ x) ∨ memAdmit s.params x = false) :
    readByte (resetInst s).mem x = readByte s.mem x := by
  rw [resetInst_of_busy hbusy]
  exact readByte_scribbleAll h

theorem memoryOk_resetInst {s : State} (h : MemoryOk s.params s.mem) : MemoryOk s.params (resetInst s).mem := by
  cases hbusy : s.core.busy with
  | false => rwa [resetInst_of_idle hbusy]
  | true =>
    rw [resetInst_of_busy hbusy]
    exact memoryOk_scribbleAll h

theorem forall_wordWriteRanges {w : Word} {c : Inst} {P : Range → Prop}
    (h : ∀ i, decode w = .ok i → ∀ r ∈ writeRanges i c, P r) : ∀ r ∈ wordWriteRanges w c, P r := by
  cases hd : decode w with
  | ok i =>
    simp only [wordWriteRanges, hd]
    exact h i hd
  | error e =>
    simp only [wordWriteRanges, hd]
    exact nofun

/-- Settles O54: the frame of a reset, and the free bytes only in a pending command's write range. -/
theorem resetAbandonsThePendingCommand : Obligations.ResetAbandonsThePendingCommand := by
  intro s t
  refine ⟨resetInst_eq s, rfl, rfl, fun hidle => ?_, fun hbusy x hx => ?_⟩
  · change (resetInst s).mem = s.mem
    rw [resetInst_of_idle hidle]
    rfl
  · exact readByte_resetInst hbusy (hx.imp_left forall_wordWriteRanges)

/-! ### Power-up -/

/-- R278: every instance is reset. -/
theorem powerUp_insts (cells : List (Nat × BitVec 8)) (s : State) :
    (powerUp cells s).insts = s.insts.map Inst.resetRegs := by
  simp [State.insts, powerUp]

theorem loadCells_not_listed {p : Params} {cells : List (Nat × BitVec 8)} {m : Memory} {x : Nat}
    (h : ∀ c ∈ cells, c.1 ≠ x) : readByte (loadCells p cells m) x = readByte m x := by
  induction cells generalizing m with
  | nil => rfl
  | cons c cells ih =>
    rw [List.forall_mem_cons] at h
    rw [loadCells, ih h.2]
    split
    · exact readByte_writeByte_other m _ h.1.symm
    · rfl

/-- Admitted contents in canonical form are loaded as they are. -/
theorem readByte_loadCells_listed {p : Params} {cells m : Memory} {x : Nat} (hwf : cells.wf = true)
    (hadm : ∀ c ∈ cells, memAdmit p c.1 = true) (hx : ∃ c ∈ cells, c.1 = x) :
    readByte (loadCells p cells m) x = readByte cells x := by
  induction cells generalizing m with
  | nil => simp at hx
  | cons c cells ih =>
    obtain ⟨hlt, -, hwf'⟩ := (wf_cons_iff c cells).mp hwf
    rw [List.forall_mem_cons] at hadm
    rw [loadCells, if_pos hadm.1]
    by_cases hc : c.1 = x
    · subst hc
      rw [loadCells_not_listed fun d hd => (hlt d hd).ne', readByte_writeByte_same, readByte_cons_self]
    · obtain ⟨d, hd, rfl⟩ := hx
      have htail : d ∈ cells := (List.mem_cons.mp hd).resolve_left fun heq => hc (congrArg Prod.fst heq).symm
      rw [ih hwf' hadm.2 ⟨d, htail, rfl⟩, readByte_cons_other cells hc]

theorem loadCells_of_canonical {p : Params} {m : Memory} (h : MemoryOk p m) : loadCells p m [] = m := by
  refine memory_ext (memoryOk_loadCells (memoryOk_nil p) m).1 h.1 fun x => ?_
  by_cases hx : ∃ c ∈ m, c.1 = x
  · exact readByte_loadCells_listed h.1 h.2 hx
  · push Not at hx
    rw [loadCells_not_listed hx, readByte_of_not_listed hx]
    rfl

/-- Settles O55: every instance is reset; and a memory given as the contents is loaded as it is. -/
theorem powerUpResetsEveryInstance : Obligations.PowerUpResetsEveryInstance := by
  intro s
  refine ⟨fun cells rest hturns => ⟨_, step_scheduled hturns, rfl, powerUp_insts _ _, fun c hc => ?_, rfl, rfl,
    engineTurn_idle rfl⟩, fun m hm hadm => ⟨m, loadCells_of_canonical ⟨hm, hadm⟩⟩⟩
  rw [powerUp_insts] at hc
  obtain ⟨c', -, rfl⟩ := List.mem_map.mp hc
  rfl

end Sys2Proof.Machine
end

section
/-! What one move does to the instance in focus: a register write (43_control.md R236), the doorbell (R231), and the frame
of each move outside that instance. -/

namespace Sys2Proof.Machine

variable (r : Reg) (v : Word) (c : Inst)

/-! ### A stored register is an operand register -/

@[simp] theorem storeReg_base : (storeReg r v c).base = c.base := by cases r <;> rfl
@[simp] theorem storeReg_held : (storeReg r v c).held = c.held := by cases r <;> rfl
@[simp] theorem storeReg_busy : (storeReg r v c).busy = c.busy := by cases r <;> rfl
@[simp] theorem storeReg_done : (storeReg r v c).done = c.done := by cases r <;> rfl
@[simp] theorem storeReg_errcode : (storeReg r v c).errcode = c.errcode := by cases r <;> rfl
@[simp] theorem storeReg_overrun : (storeReg r v c).overrun = c.overrun := by cases r <;> rfl
@[simp] theorem storeReg_ctx : (storeReg r v c).ctx = c.ctx := by cases r <;> rfl
@[simp] theorem storeReg_claimReads : (storeReg r v c).claimReads = c.claimReads := by cases r <;> rfl
@[simp] theorem storeReg_claimWrites : (storeReg r v c).claimWrites = c.claimWrites := by cases r <;> rfl

/-- A write to COUNTER clears CTR_EXH, and no other one touches either (10_state.md R29). -/
theorem storeReg_counter : (storeReg r v c).ctrExh = false ∨
    ((storeReg r v c).ctrExh = c.ctrExh ∧ (storeReg r v c).counter = c.counter) := by
  cases r with
  | counter => exact .inl rfl
  | _ => exact .inr ⟨rfl, rfl⟩

/-! ### A register write (R236) -/

theorem regWrite_reserved {off : Nat} (hr : regAt off = none) : regWrite off v c = c := by
  simp only [regWrite, hr]

/-- The access rule of the frozen registers (10_state.md R42): dropped while busy, with OVERRUN; stored while idle. -/
theorem regWrite_frozen {r : Reg} {off : Nat} (hr : regAt off = some r) (hf : isFrozen r = true) :
    regWrite off v c = if c.busy then { c with overrun := true } else storeReg r v c := by
  cases r with
  | id => cases hf
  | ctrl => cases hf
  | status => cases hf
  | _ => simp only [regWrite, hr]

/-- All a register write other than a doorbell can do. -/
theorem regWrite_cases (off : Nat) :
    regWrite off v c = c ∨ regWrite off v c = { c with irqEn := v.getLsbD 0 } ∨ regWrite off v c = writeStatus v c ∨
    (c.busy = true ∧ regWrite off v c = { c with overrun := true }) ∨
    (c.busy = false ∧ ∃ r, regWrite off v c = storeReg r v c) := by
  cases hr : regAt off with
  | none => exact .inl (regWrite_reserved v c hr)
  | some r =>
    cases hf : isFrozen r with
    | true =>
      have hwrite := regWrite_frozen v c hr hf
      cases hbusy : c.busy with
      | true => exact .inr (.inr (.inr (.inl ⟨rfl, by rw [hwrite, hbusy, if_pos rfl]⟩)))
      | false => exact .inr (.inr (.inr (.inr ⟨rfl, r, by rw [hwrite, hbusy, if_neg (by decide)]⟩)))
    | false =>
      cases r with
      | id => exact .inl (by simp only [regWrite, hr])
      | ctrl => exact .inr (.inl (by simp only [regWrite, hr]))
      | status => exact .inr (.inr (.inl (by simp only [regWrite, hr])))
      | _ => cases hf

/-! ### A write to CMD (R231) -/

variable {v : Word} {s t : State}

/-- All a write to CMD can do, when it is no fault. -/
theorem writeCmd_next (h : writeCmd v s = .next t) :
    (s.core.busy = true ∧ t = s.setCore { s.core with overrun := true }) ∨
    (s.core.busy = false ∧
      (∀ o ∈ s.before ++ s.after, claimsMeet (wordReadRanges v s.core) (wordWriteRanges v s.core) o = false) ∧
      t = s.setCore (ringDoorbell v s.core)) := by
  unfold writeCmd at h
  split at h
  · next hbusy => exact .inl ⟨hbusy, (Host.Outcome.next.inj h).symm⟩
  · next hidle =>
    split at h
    · cases h
    · next hclear =>
      refine .inr ⟨by simpa using hidle, fun o ho => ?_, (Host.Outcome.next.inj h).symm⟩
      exact Bool.eq_false_iff.mpr fun hmeet => hclear (List.any_eq_true.mpr ⟨o, ho, hmeet⟩)

/-! ### The platform (00_scope.md R7) -/

theorem writeStatus_base (v : Word) (c : Inst) : (writeStatus v c).base = c.base := by
  rw [statusWriteClearsItsFields]

theorem regWrite_base (off : Nat) (v : Word) (c : Inst) : (regWrite off v c).base = c.base := by
  rcases regWrite_cases v c off with h | h | h | ⟨-, h⟩ | ⟨-, r, h⟩ <;> rw [h]
  · exact writeStatus_base v c
  · exact storeReg_base r v c

/-- A move keeps the platform's parameters. -/
theorem Move.params (h : Move s t) : t.params = s.params := by
  cases h with
  | command v t hheld h => rcases writeCmd_next h with ⟨-, rfl⟩ | ⟨-, -, rfl⟩ <;> rfl
  | engine t h => exact (engineTurn_kept h).params
  | resetAsserted => exact resetInst_params s
  | _ => rfl

/-- A move but power-up keeps the other instances and the base of its own. -/
theorem Move.others (h : Move s t) : (∃ cells, t = powerUp cells s) ∨
    (t.before = s.before ∧ t.after = s.after ∧ t.core.base = s.core.base) := by
  cases h with
  | register off v hheld hcmd => exact .inr ⟨rfl, rfl, regWrite_base off v s.core⟩
  | command v t hheld h => rcases writeCmd_next h with ⟨-, rfl⟩ | ⟨-, -, rfl⟩ <;> exact .inr ⟨rfl, rfl, rfl⟩
  | engine t h =>
    have hk := engineTurn_kept h
    exact .inr ⟨hk.before, hk.after, hk.base⟩
  | resetAsserted => exact .inr ⟨resetInst_before s, resetInst_after s, rfl⟩
  | poweredUp cells => exact .inl ⟨cells, rfl⟩
  | _ => exact .inr ⟨rfl, rfl, rfl⟩

/-- A move keeps the instances' bases. -/
theorem Move.bases (h : Move s t) : (t.insts.map fun c => c.base) = s.insts.map fun c => c.base := by
  rcases h.others with ⟨cells, rfl⟩ | ⟨hbefore, hafter, hbase⟩
  · rw [powerUp_insts, List.map_map]
    rfl
  · simp [State.insts, hbefore, hafter, hbase]

/-- Settles O59: no move changes the parameters or a base, and the change of focus before it changes nothing. -/
theorem everyStepKeepsThePlatform : Obligations.EveryStepKeepsThePlatform := by
  intro s t hstep
  obtain ⟨u, hu, hmove⟩ := step_moves hstep
  exact ⟨hmove.params.trans hu.params, hmove.bases.trans (by rw [hu.insts])⟩

end Sys2Proof.Machine
end

section
/-! The claims of the instances (20_memory.md R76, R82; that a range stays claimed until its completion is observed is the
model's own, assumptions 6 and 7): when two conflict, and that no move makes two conflict. -/

namespace Sys2Proof.Machine

/-! ### Conflicts -/

theorem claimsMeet_iff (reads writes : List Range) (o : Inst) : claimsMeet reads writes o = true ↔
    (∃ x ∈ writes, ∃ y ∈ o.claimReads ++ o.claimWrites, disjoint x y = false) ∨
      ∃ x ∈ reads, ∃ y ∈ o.claimWrites, disjoint x y = false := by
  simp only [claimsMeet, Bool.or_eq_true, List.any_eq_true, Bool.not_eq_true']
  refine or_congr_right ⟨?_, ?_⟩
  · rintro ⟨y, hy, x, hx, h⟩
    exact ⟨x, hx, y, hy, disjoint_comm x y ▸ h⟩
  · rintro ⟨x, hx, y, hy, h⟩
    exact ⟨y, hy, x, hx, disjoint_comm x y ▸ h⟩

/-- Two instances claim ranges that meet where one writes. -/
def Conflict (c d : Inst) : Prop := claimsMeet c.claimReads c.claimWrites d = true

theorem conflict_comm {c d : Inst} : Conflict c d ↔ Conflict d c := by
  have half {c d : Inst} (h : Conflict c d) : Conflict d c := by
    unfold Conflict at *
    rw [claimsMeet_iff] at *
    simp only [List.mem_append] at *
    rcases h with ⟨x, hx, y, hy | hy, h⟩ | ⟨x, hx, y, hy, h⟩
    · exact .inr ⟨y, hy, x, hx, disjoint_comm x y ▸ h⟩
    · exact .inl ⟨y, hy, x, .inr hx, disjoint_comm x y ▸ h⟩
    · exact .inl ⟨y, hy, x, .inl hx, disjoint_comm x y ▸ h⟩
  exact ⟨half, half⟩

/-- What more claims conflict with, one of their parts conflicts with. -/
theorem claimsMeet_append (reads reads' writes writes' : List Range) (o : Inst) :
    claimsMeet (reads ++ reads') (writes ++ writes') o =
      (claimsMeet reads writes o || claimsMeet reads' writes' o) := by
  rw [Bool.eq_iff_iff, Bool.or_eq_true, claimsMeet_iff, claimsMeet_iff, claimsMeet_iff]
  simp only [List.mem_append (s := writes), List.mem_append (s := reads), or_and_right, exists_or]
  exact or_or_or_comm

theorem claimsMeet_nil (o : Inst) : claimsMeet [] [] o = false := by
  rw [Bool.eq_false_iff, Ne, claimsMeet_iff]
  simp

/-! ### Launches apart -/

/-- The order of the instances does not matter: the one in focus against each other one, and these among themselves. -/
theorem launchesApart_iff (s : State) : s.LaunchesApart ↔
    (∀ o ∈ s.before ++ s.after, ¬Conflict s.core o) ∧ (s.before ++ s.after).Pairwise fun c d => ¬Conflict c d := by
  simp only [State.LaunchesApart, State.insts, ← Bool.not_eq_true]
  exact (List.perm_middle.pairwise_iff fun h => mt conflict_comm.mpr h).trans List.pairwise_cons

section
variable {s t : State} (hbefore : t.before = s.before) (hafter : t.after = s.after) (hs : s.LaunchesApart)
include hbefore hafter hs

/-- Only the claims of the instance in focus can bring a conflict. -/
theorem launchesApart_of_core (hcore : ∀ o ∈ s.before ++ s.after, ¬Conflict t.core o) : t.LaunchesApart := by
  rw [launchesApart_iff] at *
  rw [hbefore, hafter]
  exact ⟨hcore, hs.2⟩

theorem launchesApart_of_sameClaims (hreads : t.core.claimReads = s.core.claimReads)
    (hwrites : t.core.claimWrites = s.core.claimWrites) : t.LaunchesApart := by
  refine launchesApart_of_core hbefore hafter hs fun o ho => ?_
  rw [Conflict, hreads, hwrites]
  exact ((launchesApart_iff s).mp hs).1 o ho

theorem launchesApart_of_noClaims (hreads : t.core.claimReads = []) (hwrites : t.core.claimWrites = []) :
    t.LaunchesApart := by
  refine launchesApart_of_core hbefore hafter hs fun o _ => ?_
  rw [Conflict, hreads, hwrites, claimsMeet_nil]
  exact Bool.false_ne_true

end

/-- An accepted doorbell claims ranges that were found apart, beside the claims the instance had. -/
theorem launchesApart_ringDoorbell {s : State} {v : Word} (hs : s.LaunchesApart)
    (hclear : ∀ o ∈ s.before ++ s.after, claimsMeet (wordReadRanges v s.core) (wordWriteRanges v s.core) o = false) :
    (s.setCore (ringDoorbell v s.core)).LaunchesApart := by
  refine launchesApart_of_core (s := s) rfl rfl hs fun o ho => ?_
  change ¬claimsMeet (wordReadRanges v s.core ++ s.core.claimReads) (wordWriteRanges v s.core ++ s.core.claimWrites) o =
    true
  rw [claimsMeet_append, hclear o ho, Bool.false_or]
  exact ((launchesApart_iff s).mp hs).1 o ho

theorem writeStatus_claims (v : Word) (c : Inst) :
    (writeStatus v c).claimReads = c.claimReads ∧ (writeStatus v c).claimWrites = c.claimWrites := by
  rw [statusWriteClearsItsFields]
  exact ⟨rfl, rfl⟩

theorem regWrite_claims (off : Nat) (v : Word) (c : Inst) :
    (regWrite off v c).claimReads = c.claimReads ∧ (regWrite off v c).claimWrites = c.claimWrites := by
  rcases regWrite_cases v c off with h | h | h | ⟨-, h⟩ | ⟨-, r, h⟩ <;> rw [h]
  · exact ⟨rfl, rfl⟩
  · exact ⟨rfl, rfl⟩
  · exact writeStatus_claims v c
  · exact ⟨rfl, rfl⟩
  · exact ⟨storeReg_claimReads r v c, storeReg_claimWrites r v c⟩

theorem Move.launchesApart {s t : State} (h : Move s t) (hs : s.LaunchesApart) : t.LaunchesApart := by
  cases h with
  | idle => exact hs
  | register off v hheld hcmd =>
    obtain ⟨hreads, hwrites⟩ := regWrite_claims off v s.core
    exact launchesApart_of_sameClaims (s := s) rfl rfl hs hreads hwrites
  | command v t hheld h =>
    rcases writeCmd_next h with ⟨-, rfl⟩ | ⟨-, hclear, rfl⟩
    · exact launchesApart_of_sameClaims (s := s) rfl rfl hs rfl rfl
    · exact launchesApart_ringDoorbell hs hclear
  | observe h => exact launchesApart_of_noClaims (s := s) rfl rfl hs rfl rfl
  | store a v hadm => exact hs
  | engine t h =>
    have hk := engineTurn_kept h
    exact launchesApart_of_sameClaims hk.before hk.after hs hk.claimReads hk.claimWrites
  | resetAsserted => exact launchesApart_of_noClaims (resetInst_before s) (resetInst_after s) hs rfl rfl
  | resetReleased => exact launchesApart_of_sameClaims (s := s) rfl rfl hs rfl rfl
  | poweredUp cells =>
    rw [State.LaunchesApart, powerUp_insts, List.pairwise_map]
    exact List.pairwise_of_forall fun c d => claimsMeet_nil d.resetRegs

/-- Settles O58: no move makes two launches conflict, and the change of focus before it keeps the claims. -/
theorem everyStepKeepsLaunchesApart : Obligations.EveryStepKeepsLaunchesApart := by
  intro s t hs hstep
  obtain ⟨u, hu, hmove⟩ := step_moves hstep
  refine hmove.launchesApart ?_
  rwa [State.LaunchesApart, hu.insts]

end Sys2Proof.Machine
end

section
/-! The logical counter (40_chacha20.md R120, 10_state.md R29, R39): a CHACHA20_XOR advances it by its blocks or leaves it
alone, and never past 2^32. -/

namespace Sys2Proof.Machine

/-- The two ends of a CHACHA20_XOR, as far as COUNTER and CTR_EXH go. -/
theorem chacha20Xor_ends {s t : State} (h : exec .chacha20Xor s = .next t) :
    (Chacha20XorAccepts s ∧ t = chacha20XorDone s) ∨
    (t.core.errcode ≠ 0 ∧ t.core.counter = s.core.counter ∧ t.core.ctrExh = s.core.ctrExh) := by
  by_cases h0 : t.core.errcode = 0
  · have hacc := chacha20Xor_accepts_of_success h h0
    exact .inl ⟨hacc, (Host.Outcome.next.inj ((exec_chacha20Xor_accepted hacc).symm.trans h)).symm⟩
  · refine .inr ⟨h0, ?_⟩
    obtain rfl := Host.Outcome.next.inj h
    rcases chacha20Xor_cases s with ⟨-, hu⟩ | ⟨-, -, hu⟩ | ⟨-, -, -, hu⟩ | ⟨-, -, -, -, hu⟩ | ⟨-, -, -, -, hu⟩ <;>
      rw [hu] at h0 ⊢
    · exact ⟨rfl, rfl⟩
    · exact ⟨rfl, rfl⟩
    · exact ⟨rfl, rfl⟩
    · rw [complete_core, scribble_core]
      exact ⟨rfl, rfl⟩
    · exact absurd ((complete_errcode_iff _ .none .none).mpr rfl) h0

/-- The logical counter split into CTR_EXH and COUNTER (R29). -/
theorem counter_split {n : Nat} (h : n ≤ 2 ^ 32) :
    (decide (n = 2 ^ 32)).toNat * 2 ^ 32 + (BitVec.ofNat 32 n).toNat = n := by
  rw [BitVec.toNat_ofNat]
  by_cases hend : n = 2 ^ 32
  · rw [hend]
    decide
  · rw [decide_eq_false hend, Bool.toNat_false]
    omega

theorem ctr33_chacha20XorDone {s : State} (h : Chacha20XorAccepts s) :
    ctr33 (chacha20XorDone s).core = ctr33 s.core + blockCount (r64 s.core.len) := counter_split h.counter

/-- COUNTER is zero at the exhausted counter (R39). -/
theorem chacha20XorDone_exhausted {s : State} (h : (chacha20XorDone s).core.ctrExh = true) :
    (chacha20XorDone s).core.counter = 0 := by
  have hend : ctr33 s.core + blockCount (r64 s.core.len) = 2 ^ 32 := of_decide_eq_true h
  change BitVec.ofNat 32 (ctr33 s.core + blockCount (r64 s.core.len)) = 0
  rw [hend]
  rfl

/-- Settles O26, by the two ends of the command. -/
theorem counterNeverWraps : Obligations.CounterNeverWraps := by
  intro s t h
  rcases chacha20Xor_ends h with ⟨hacc, rfl⟩ | ⟨h0, hcounter, hexh⟩
  · rw [ctr33_chacha20XorDone hacc]
    exact ⟨fun _ => ⟨rfl, hacc.counter, chacha20XorDone_exhausted⟩, fun hne => absurd rfl hne⟩
  · exact ⟨fun heq => absurd heq h0, fun _ => by rw [ctr33, hcounter, hexh, ctr33]⟩

end Sys2Proof.Machine
end

section
/-! The invariant of the machine (10_state.md R36, R37, R39, R43; 70_reset_and_hazards.md R300): each move keeps it of
the instance in focus and of data memory, and does nothing to the rest. -/

namespace Sys2Proof.Machine

/-! ### The Poly1305 context (10_state.md R43) -/

theorem polyCtx_closed_ok : PolyCtx.closed.Ok := ⟨rfl, polyP_pos, Nat.zero_lt_succ 15, fun _ => ⟨rfl, rfl, rfl, rfl⟩⟩

theorem openCtx_ok (k : List Byte) : (openCtx k).Ok := ⟨clamp_keyR k, polyP_pos, Nat.zero_lt_succ 15, nofun⟩

theorem absorb_ok {x : PolyCtx} (h : x.Ok) (hvalid : x.valid = true) (d : List Byte) : (absorb x d).Ok := by
  obtain ⟨hr, hacc, -, -⟩ := h
  refine ⟨hr, absorb_acc_lt hacc d, ?_, fun hclosed => ?_⟩
  · rw [absorb_pbuf_length]
    omega
  · rw [absorb_valid, hvalid] at hclosed
    cases hclosed

theorem exec_ctx_ok {i : Instr} {s t : State} (h : exec i s = .next t) (hs : s.core.ctx.Ok) : t.core.ctx.Ok := by
  rcases exec_shapes h with ⟨_, -, rfl⟩ | ⟨-, rfl⟩ | ⟨-, rfl⟩ | ⟨_, -, -, rfl⟩ | ⟨_, -, -, rfl⟩ | ⟨_, -, -, -, rfl⟩ |
    ⟨_, _, -, -, -, -, rfl⟩ | ⟨-, rfl⟩ | ⟨d, -, hvalid, rfl⟩ | ⟨_, -, rfl⟩ | ⟨_, _, -, -, -, rfl⟩ | ⟨_, -, -, -, rfl⟩ |
    ⟨-, rfl⟩
  · exact hs
  · exact polyCtx_closed_ok
  · exact polyCtx_closed_ok
  · exact hs
  · exact polyCtx_closed_ok
  · exact hs
  · exact hs
  · exact openCtx_ok _
  · exact absorb_ok hs hvalid d
  · exact polyCtx_closed_ok
  · exact polyCtx_closed_ok
  · exact polyCtx_closed_ok
  · exact polyCtx_closed_ok

theorem exec_exhausted {i : Instr} {s t : State} (h : exec i s = .next t)
    (hs : s.core.ctrExh = true → s.core.counter = 0) : t.core.ctrExh = true → t.core.counter = 0 := by
  by_cases hi : i = .chacha20Xor
  · subst hi
    rcases chacha20Xor_ends h with ⟨-, rfl⟩ | ⟨-, hcounter, hexh⟩
    · exact chacha20XorDone_exhausted
    · rwa [hcounter, hexh]
  · obtain ⟨hkept, -⟩ := exec_registers h
    obtain ⟨hcounter, hexh⟩ := hkept hi
    rwa [hcounter, hexh]

/-! ### The parts of an instance's invariant -/

theorem claimsOk_of_idle {c : Inst} (h : c.busy = false) : c.ClaimsOk := by
  intro hbusy
  rw [h] at hbusy
  cases hbusy

theorem heldOk_of_released {c : Inst} (h : c.held = false) : c.HeldOk := by
  intro hheld
  rw [h] at hheld
  cases hheld

/-- A CORE held in reset has no command pending. -/
theorem released_of_busy {c : Inst} (h : c.HeldOk) (hbusy : c.busy = true) : c.held = false := by
  rw [← Bool.not_eq_true]
  intro hheld
  rw [h hheld] at hbusy
  cases hbusy

theorem idle_of_done {c : Inst} (h : c.StatusOk) (hdone : c.done = true) : c.busy = false := by
  obtain ⟨hnever, -⟩ := h
  exact Bool.eq_false_iff.mpr fun hbusy => hnever ⟨hbusy, hdone⟩

theorem resetRegs_ok (c : Inst) : c.resetRegs.Ok :=
  ⟨polyCtx_closed_ok, ⟨nofun, fun _ => rfl, Nat.zero_le 8, nofun⟩, claimsOk_of_idle rfl,
    fun _ => rfl⟩

/-! ### What a move does to the instance in focus -/

theorem writeStatus_ok {c : Inst} (v : Word) (hheld : c.held = false) (h : c.Ok) : (writeStatus v c).Ok := by
  obtain ⟨hctx, ⟨hnever, hrecord, hcode, hexh⟩, hclaims, -⟩ := h
  cases hack : v.getLsbD 1 && c.done with
  | true =>
    rw [writeStatus_of_acknowledged hack]
    exact ⟨hctx, ⟨fun hboth => Bool.false_ne_true hboth.2, fun _ => rfl, Nat.zero_le 8, hexh⟩, hclaims,
      heldOk_of_released hheld⟩
  | false =>
    rw [writeStatus_of_not_acknowledged hack]
    exact ⟨hctx, ⟨hnever, hrecord, hcode, hexh⟩, hclaims, heldOk_of_released hheld⟩

theorem storeReg_ok {c : Inst} (r : Reg) (v : Word) (hheld : c.held = false) (hidle : c.busy = false) (h : c.Ok) :
    (storeReg r v c).Ok := by
  obtain ⟨hctx, ⟨hnever, hrecord, hcode, hexh⟩, -, -⟩ := h
  refine ⟨(storeReg_ctx r v c).symm ▸ hctx, ?_, claimsOk_of_idle ((storeReg_busy r v c).trans hidle),
    heldOk_of_released ((storeReg_held r v c).trans hheld)⟩
  rw [Inst.StatusOk, storeReg_busy, storeReg_done, storeReg_errcode]
  refine ⟨hnever, hrecord, hcode, ?_⟩
  rcases storeReg_counter r v c with hclear | ⟨hkept, hcounter⟩
  · rw [hclear]
    exact nofun
  · rwa [hkept, hcounter]

theorem overrun_ok {c : Inst} (hheld : c.held = false) (h : c.Ok) : { c with overrun := true }.Ok := by
  obtain ⟨hctx, hstatus, hclaims, -⟩ := h
  exact ⟨hctx, hstatus, hclaims, heldOk_of_released hheld⟩

theorem regWrite_ok {c : Inst} (off : Nat) (v : Word) (hheld : c.held = false) (h : c.Ok) : (regWrite off v c).Ok := by
  rcases regWrite_cases v c off with hw | hw | hw | ⟨-, hw⟩ | ⟨hidle, r, hw⟩ <;> rw [hw]
  · exact h
  · obtain ⟨hctx, hstatus, hclaims, -⟩ := h
    exact ⟨hctx, hstatus, hclaims, heldOk_of_released hheld⟩
  · exact writeStatus_ok v hheld h
  · exact overrun_ok hheld h
  · exact storeReg_ok r v hheld hidle h

theorem ringDoorbell_ok {c : Inst} (v : Word) (hheld : c.held = false) (h : c.Ok) : (ringDoorbell v c).Ok := by
  obtain ⟨hctx, ⟨-, -, -, hexh⟩, -, -⟩ := h
  exact ⟨hctx, ⟨fun hboth => Bool.false_ne_true hboth.2, fun _ => rfl, Nat.zero_le 8, hexh⟩,
    fun _ => ⟨fun _ hx => List.mem_append_left _ hx, fun _ hx => List.mem_append_left _ hx⟩, heldOk_of_released hheld⟩

theorem unclaim_ok {c : Inst} (hidle : c.busy = false) (h : c.Ok) : (unclaim c).Ok := by
  obtain ⟨hctx, hstatus, -, hheld⟩ := h
  exact ⟨hctx, hstatus, claimsOk_of_idle hidle, fun hh => congrArg unclaim (hheld hh)⟩

/-- What the engine's step leaves: completed, with a context and a counter as the invariant asks. -/
theorem engineTurn_ok_core {s t : State} (h : engineTurn s = .next t) (hs : s.core.Ok) : t.core.Ok := by
  have hkept := engineTurn_kept h
  have ⟨hctx, ⟨_, _, _, hexh⟩, _, hheld⟩ := hs
  have completed (hbusy : s.core.busy = true) (hidle : t.core.busy = false) (hdone : t.core.done = true)
      (hcode : t.core.errcode.toNat ≤ 8) (hctx' : t.core.ctx.Ok) (hexh' : t.core.ctrExh = true → t.core.counter = 0) :
      t.core.Ok :=
    ⟨hctx', ⟨fun hboth => Bool.false_ne_true (hidle.symm.trans hboth.1),
      fun hnot => absurd (hdone.symm.trans hnot) (by decide), hcode, hexh'⟩, claimsOk_of_idle hidle,
      heldOk_of_released (hkept.held.trans (released_of_busy hheld hbusy))⟩
  rcases engineTurn_cases s with ⟨-, hturn⟩ | ⟨hbusy, hturn⟩ | ⟨i, hbusy, -, hturn⟩ <;> rw [hturn] at h
  · exact Host.Outcome.next.inj h ▸ hs
  · obtain rfl := Host.Outcome.next.inj h
    exact completed hbusy rfl rfl (errNumber_toNat_le .illegalCmd) hctx hexh
  · obtain ⟨hidle, hdone, hcode⟩ := exec_completed h
    exact completed hbusy hidle hdone hcode (exec_ctx_ok h hctx) (exec_exhausted h hexh)

/-- The reset input released: the reset values stay. -/
theorem released_ok {c : Inst} (h : c.Ok) : { c with held := false }.Ok := by
  obtain ⟨hctx, hstatus, hclaims, -⟩ := h
  exact ⟨hctx, hstatus, hclaims, heldOk_of_released rfl⟩

theorem Move.core_ok {s t : State} (h : Move s t) (hs : s.core.Ok) : t.core.Ok := by
  cases h with
  | idle => exact hs
  | register off v hheld hcmd => exact regWrite_ok off v hheld hs
  | command v t hheld h =>
    rcases writeCmd_next h with ⟨-, rfl⟩ | ⟨-, -, rfl⟩
    · exact overrun_ok hheld hs
    · exact ringDoorbell_ok v hheld hs
  | observe h =>
    have ⟨_, hstatus, _⟩ := hs
    refine unclaim_ok (h.elim id fun hirq => idle_of_done hstatus ?_) hs
    exact (Bool.and_eq_true_iff.mp hirq).1
  | store a v hadm => exact hs
  | engine t h => exact engineTurn_ok_core h hs
  | resetAsserted => exact resetRegs_ok { s.core with held := true }
  | resetReleased => exact released_ok hs
  | poweredUp cells => exact resetRegs_ok s.core

/-! ### What a move does to data memory -/

theorem exec_memoryOk {i : Instr} {s t : State} (h : exec i s = .next t) (hs : MemoryOk s.params s.mem) :
    MemoryOk s.params t.mem := by
  rcases exec_mem h with hmem | ⟨n, -, hmem⟩ | ⟨v, -, hadm, hmem⟩ <;> rw [hmem]
  · exact hs
  · exact memoryOk_freeBytes hs ..
  · exact memoryOk_writeBytes hs hadm

theorem engineTurn_memoryOk {s t : State} (h : engineTurn s = .next t) (hs : MemoryOk s.params s.mem) :
    MemoryOk s.params t.mem := by
  rcases engineTurn_cases s with ⟨-, hturn⟩ | ⟨-, hturn⟩ | ⟨i, -, -, hturn⟩ <;> rw [hturn] at h
  · exact Host.Outcome.next.inj h ▸ hs
  · obtain rfl := Host.Outcome.next.inj h
    exact hs
  · exact exec_memoryOk h hs

theorem Move.memoryOk {s t : State} (h : Move s t) (hs : MemoryOk s.params s.mem) : MemoryOk t.params t.mem := by
  rw [h.params]
  cases h with
  | command v t hheld h => rcases writeCmd_next h with ⟨-, rfl⟩ | ⟨-, -, rfl⟩ <;> exact hs
  | store a v hadm => exact memoryOk_writeByte hs hadm v
  | engine t h => exact engineTurn_memoryOk h hs
  | resetAsserted => exact memoryOk_resetInst hs
  | poweredUp cells => exact memoryOk_loadCells (memoryOk_nil s.params) cells
  | _ => exact hs

/-! ### The machine -/

theorem Move.insts_ok {s t : State} (h : Move s t) (hs : ∀ c ∈ s.insts, c.Ok) : ∀ c ∈ t.insts, c.Ok := by
  intro c hc
  rcases h.others with ⟨cells, rfl⟩ | ⟨hbefore, hafter, -⟩
  · rw [powerUp_insts] at hc
    obtain ⟨d, -, rfl⟩ := List.mem_map.mp hc
    exact resetRegs_ok d
  · rw [State.insts, hbefore, hafter, List.mem_append, List.mem_cons] at hc
    rcases hc with hc | rfl | hc
    · exact hs c (List.mem_append_left _ hc)
    · exact h.core_ok (hs s.core (mem_insts_core s))
    · exact hs c (List.mem_append_right _ (List.mem_cons_of_mem _ hc))

theorem Move.inv {s t : State} (h : Move s t) (hs : s.Inv) : t.Inv := by
  obtain ⟨hparams, hbases, hinsts, hmem⟩ := hs
  exact ⟨h.params ▸ hparams, h.bases.symm ▸ hbases, h.insts_ok hinsts, h.memoryOk hmem⟩

theorem SameMachine.inv {s u : State} (h : SameMachine s u) (hs : s.Inv) : u.Inv := by
  rwa [State.Inv, h.params, h.insts, h.mem]

/-- Settles O57: a move keeps the invariant, and the change of focus, host agent and turns before it does not meet it. -/
theorem everyStepKeepsTheInvariant : Obligations.EveryStepKeepsTheInvariant := by
  intro s t hs hstep
  obtain ⟨u, hu, hmove⟩ := step_moves hstep
  exact hmove.inv (hu.inv hs)

/-- Settles O56: the one instance stands at its reset values, and nothing is listed in memory. -/
theorem resetMeetsTheInvariants : Obligations.ResetMeetsTheInvariants := by
  have hinsts : State.reset.insts = [Inst.reset 0] := rfl
  refine ⟨⟨by decide, by decide, ?_, memoryOk_nil _⟩, ?_⟩
  · rw [hinsts, List.forall_mem_singleton]
    exact resetRegs_ok (Inst.reset 0)
  · rw [State.LaunchesApart, hinsts]
    exact List.pairwise_singleton _ _

end Sys2Proof.Machine
end

section
/-! Two CHACHA20_XOR commands, the first of whole blocks, do what one does (40_chacha20.md R125). -/

namespace Sys2Proof.Machine

/-! ### Ranges cut in two -/

theorem rangeOk_tail {p : Params} {a n k : Nat} (h : RangeOk p a (n + k)) : RangeOk p (a + n) k := by
  unfold RangeOk at *
  omega

theorem allAdmitted_tail {p : Params} {a n k : Nat} (h : AllAdmitted p a (n + k)) : AllAdmitted p (a + n) k := by
  intro i hi
  rw [Nat.add_assoc]
  exact h (n + i) (Nat.add_lt_add_left hi n)

/-- The heads of two equally long ranges apart are apart, and so are their tails; and the tail of the one is apart from
the head of the other, even if the two are the same range. -/
theorem apart_cut {a b n k : Nat} (h : a = b ∨ Apart a (n + k) b (n + k)) :
    (a = b ∨ Apart a n b n) ∧ (a + n = b + n ∨ Apart (a + n) k (b + n) k) ∧ Apart (a + n) k b n := by
  unfold Apart at *
  omega

/-! ### The keystream of two commands -/

theorem xorStream_append {d : List Byte} (k n : List Byte) (c : Nat) (e : List Byte) (h : 64 ∣ d.length) :
    xorStream k n c (d ++ e) = xorStream k n c d ++ xorStream k n (c + blockCount d.length) e := by
  rw [xorStream, List.length_append, keystream_append k n c e.length h,
    List.zipWith_append (keystream_length ..).symm]
  rfl

/-- The logical counter is COUNTER and CTR_EXH alone. -/
@[simp] theorem ctr33_operands (c : Inst) (src dst len : RegPair) :
    ctr33 { c with src := src, dst := dst, len := len } = ctr33 c := rfl

/-- The first of the two commands: its LEN only the first bytes. -/
def firstXor (s : State) (len1 : RegPair) : State := s.setCore { s.core with len := len1 }

/-- The second of the two commands, after the first: its operands the rest. -/
def restXor (s : State) (len1 src2 dst2 len2 : RegPair) : State :=
  (chacha20XorDone (firstXor s len1)).setCore
    { (chacha20XorDone (firstXor s len1)).core with src := src2, dst := dst2, len := len2 }

/-- The operands of the two commands cut those of an accepted one at a whole block. -/
structure XorCut (s : State) (len1 src2 dst2 len2 : RegPair) : Prop where
  accepts : Chacha20XorAccepts s
  blocks  : 64 ∣ r64 len1
  len     : r64 len1 + r64 len2 = r64 s.core.len
  src     : r64 src2 = r64 s.core.src + r64 len1
  dst     : r64 dst2 = r64 s.core.dst + r64 len1

theorem chacha20XorOutput_firstXor (s : State) (len1 : RegPair) : chacha20XorOutput (firstXor s len1) =
    xorStream (keyBytes s.core) (nonceBytes s.core) (ctr33 s.core) (readBytes s.mem (r64 s.core.src) (r64 len1)) := rfl

section
variable {s : State} {len1 src2 dst2 len2 : RegPair} (h : XorCut s len1 src2 dst2 len2)
include h

theorem XorCut.apart : (r64 s.core.src = r64 s.core.dst ∨
      Apart (r64 s.core.src) (r64 len1) (r64 s.core.dst) (r64 len1)) ∧
    (r64 src2 = r64 dst2 ∨ Apart (r64 src2) (r64 len2) (r64 dst2) (r64 len2)) ∧
    Apart (r64 src2) (r64 len2) (r64 s.core.dst) (r64 len1) := by
  have hapart := h.accepts.apart
  rw [← h.len] at hapart
  rw [h.src, h.dst]
  exact apart_cut hapart

/-- The two commands use as many blocks as the one. -/
theorem XorCut.counter : ctr33 s.core + blockCount (r64 len1) + blockCount (r64 len2) =
    ctr33 s.core + blockCount (r64 s.core.len) := by
  rw [← h.len, blockCount_add h.blocks, Nat.add_assoc]

theorem XorCut.first_accepts : Chacha20XorAccepts (firstXor s len1) := by
  have hcounter := h.counter
  obtain ⟨hctr, ⟨hsrc, hdst⟩, -, hsrcAdm, hdstAdm⟩ := h.accepts
  rw [← hcounter] at hctr
  rw [← h.len] at hsrc hdst hsrcAdm hdstAdm
  exact {
    counter := (Nat.le_add_right _ _).trans hctr
    inRange := ⟨rangeOk_of_add hsrc, rangeOk_of_add hdst⟩
    apart := h.apart.1
    admitted := ⟨allAdmitted_of_add hsrcAdm, allAdmitted_of_add hdstAdm⟩ }

theorem XorCut.ctr33_rest : ctr33 (restXor s len1 src2 dst2 len2).core = ctr33 s.core + blockCount (r64 len1) := by
  calc ctr33 (restXor s len1 src2 dst2 len2).core
    _ = ctr33 (chacha20XorDone (firstXor s len1)).core := by rw [restXor, setCore_core, ctr33_operands]
    _ = ctr33 (firstXor s len1).core + blockCount (r64 (firstXor s len1).core.len) :=
      ctr33_chacha20XorDone h.first_accepts
    _ = ctr33 s.core + blockCount (r64 len1) := by
      rw [firstXor, setCore_core, ctr33_operands s.core s.core.src s.core.dst]

theorem XorCut.rest_accepts : Chacha20XorAccepts (restXor s len1 src2 dst2 len2) := by
  have hlen : r64 (restXor s len1 src2 dst2 len2).core.len = r64 len2 := rfl
  obtain ⟨hctr, ⟨hsrc, hdst⟩, -, hsrcAdm, hdstAdm⟩ := h.accepts
  rw [← h.len] at hsrc hdst hsrcAdm hdstAdm
  have hrange : RangeOk s.params (r64 src2) (r64 len2) ∧ RangeOk s.params (r64 dst2) (r64 len2) := by
    rw [h.src, h.dst]
    exact ⟨rangeOk_tail hsrc, rangeOk_tail hdst⟩
  have hadm : AllAdmitted s.params (r64 src2) (r64 len2) ∧ AllAdmitted s.params (r64 dst2) (r64 len2) := by
    rw [h.src, h.dst]
    exact ⟨allAdmitted_tail hsrcAdm, allAdmitted_tail hdstAdm⟩
  exact {
    counter := by
      rw [h.ctr33_rest, hlen, h.counter]
      exact hctr
    inRange := hrange
    apart := h.apart.2.1
    admitted := hadm }

/-- The first command has not touched what the second reads. -/
theorem XorCut.readBytes_rest : readBytes (restXor s len1 src2 dst2 len2).mem (r64 src2) (r64 len2) =
    readBytes s.mem (r64 s.core.src + r64 len1) (r64 len2) := by
  rw [← h.src]
  refine readBytes_writeBytes_apart s.mem ?_
  rw [chacha20XorOutput_length]
  exact h.apart.2.2

theorem XorCut.output_rest : chacha20XorOutput (restXor s len1 src2 dst2 len2) =
    xorStream (keyBytes s.core) (nonceBytes s.core) (ctr33 s.core + blockCount (r64 len1))
      (readBytes s.mem (r64 s.core.src + r64 len1) (r64 len2)) := by
  rw [← h.ctr33_rest, ← h.readBytes_rest]
  rfl

/-- The outputs of the two commands are the parts of the output of the one. -/
theorem XorCut.output : chacha20XorOutput (firstXor s len1) ++
    chacha20XorOutput (restXor s len1 src2 dst2 len2) = chacha20XorOutput s := by
  have hblocks : 64 ∣ (readBytes s.mem (r64 s.core.src) (r64 len1)).length := by
    rw [readBytes_length]
    exact h.blocks
  rw [h.output_rest, chacha20XorOutput_firstXor, chacha20XorOutput, ← h.len, readBytes_append,
    xorStream_append _ _ _ _ hblocks, readBytes_length]

theorem XorCut.mem : (chacha20XorDone (restXor s len1 src2 dst2 len2)).mem = (chacha20XorDone s).mem := by
  calc (chacha20XorDone (restXor s len1 src2 dst2 len2)).mem
    _ = writeBytes (writeBytes s.mem (r64 s.core.dst) (chacha20XorOutput (firstXor s len1))) (r64 dst2)
          (chacha20XorOutput (restXor s len1 src2 dst2 len2)) := rfl
    _ = writeBytes s.mem (r64 s.core.dst) (chacha20XorOutput s) := by
      rw [← h.output, writeBytes_append, chacha20XorOutput_length, h.dst]
      rfl

end

/-- Settles O28: both commands are accepted, their outputs are the parts of the one's, and so are their blocks. -/
theorem chacha20XorChainsAtWholeBlocks : Obligations.Chacha20XorChainsAtWholeBlocks := by
  intro s t u len1 len2 src2 dst2 _ _ hdvd hlen hsrc2 hdst2 hexec h0 hfirst
  have h := chacha20Xor_accepts_of_success hexec h0
  obtain rfl : chacha20XorDone s = t := Host.Outcome.next.inj ((exec_chacha20Xor_accepted h).symm.trans hexec)
  have hcut : XorCut s len1 src2 dst2 len2 := ⟨h, hdvd, hlen, hsrc2, hdst2⟩
  obtain rfl : chacha20XorDone (firstXor s len1) = u :=
    Host.Outcome.next.inj ((exec_chacha20Xor_accepted hcut.first_accepts).symm.trans hfirst)
  have hctr := (congrArg (· + blockCount (r64 len2)) hcut.ctr33_rest).trans hcut.counter
  exact ⟨rfl, chacha20XorDone (restXor s len1 src2 dst2 len2), exec_chacha20Xor_accepted hcut.rest_accepts, rfl,
    congrArg (BitVec.ofNat 32) hctr, congrArg (fun n => decide (n = 2 ^ 32)) hctr,
    fun x => congrArg (readByte · x) hcut.mem⟩

end Sys2Proof.Machine
end

section
/-! A decryption releases nothing before its tag is accepted (42_aead.md R196, R197, R200). -/

namespace Sys2Proof.Machine

/-- A decryption that touches memory has read its ranges and found the received tag authentic. -/
theorem aeadDecryptRule_releases (s : State) :
    ((aeadDecryptRule s).mem = s.mem ∧ (aeadDecryptRule s).draws = s.draws) ∨
    ((AllAdmitted s.params (r64 s.core.src) (r64 s.core.len) ∧
        AllAdmitted s.params (r64 s.core.aad) (r64 s.core.aadlen)) ∧
      tagBytes s.core = aeadExpectedTag s ∧
      ((aeadDecryptRule s).core.errcode = 0 ∨ (aeadDecryptRule s).core.errcode = 8)) := by
  rcases aeadDecrypt_cases s with ⟨-, h⟩ | ⟨-, -, h⟩ | ⟨-, -, -, h⟩ | ⟨-, -, -, -, h⟩ | ⟨-, -, -, -, -, h⟩ |
    ⟨-, -, -, hread, htag, -, h⟩ | ⟨-, -, -, hread, htag, -, h⟩ <;> rw [h]
  · exact .inl ⟨rfl, rfl⟩
  · exact .inl ⟨rfl, rfl⟩
  · exact .inl ⟨rfl, rfl⟩
  · exact .inl ⟨rfl, rfl⟩
  · exact .inl ⟨rfl, rfl⟩
  · exact .inr ⟨(bothAdmitted_iff ..).mp hread, (ctEqual16_iff ..).mp htag,
      .inr ((complete_errcode_iff _ .busError .busError).mpr rfl)⟩
  · exact .inr ⟨(bothAdmitted_iff ..).mp hread, (ctEqual16_iff ..).mp htag,
      .inl ((complete_errcode_iff _ .none .none).mpr rfl)⟩

/-- Settles O37: whatever is not the release after an accepted tag leaves memory and the draws alone. -/
theorem decryptionFailsClosed : Obligations.DecryptionFailsClosed := by
  intro s t h
  obtain ⟨-, -, htag, -⟩ := exec_registers h
  refine ⟨htag (by decide), ?_⟩
  obtain rfl := Host.Outcome.next.inj h
  rcases aeadDecryptRule_releases s with hkept | ⟨hread, hauth, hcode⟩
  · exact ⟨fun _ _ => hkept, fun _ => hkept, fun hne => absurd hkept.1 hne⟩
  · exact ⟨fun h0 h8 => (hcode.elim h0 h8).elim, fun hno => absurd hread hno, fun _ => hauth⟩

/-- Only an accepted AEAD_DECRYPT ends with error number 0. -/
theorem aeadDecrypt_accepts_of_success {s t : State} (h : exec .aeadDecrypt s = .next t) (h0 : t.core.errcode = 0) :
    AeadDecryptAccepts s := by
  obtain rfl := Host.Outcome.next.inj h
  have hnone {u : State} {e : ErrCode} (hu : aeadDecryptRule s = u.complete e) : e = .none :=
    (complete_errcode_iff u e .none).mp (hu ▸ h0)
  rcases aeadDecrypt_cases s with ⟨-, hu⟩ | ⟨-, -, hu⟩ | ⟨-, -, -, hu⟩ | ⟨-, -, -, -, hu⟩ | ⟨-, -, -, -, -, hu⟩ |
    ⟨-, -, -, -, -, -, hu⟩ | ⟨hlen, hrange, hapart, hread, htag, hwrite, -⟩
  · cases hnone hu
  · cases hnone hu
  · cases hnone hu
  · cases hnone hu
  · cases hnone hu
  · cases hnone hu
  · exact ⟨⟨hlen, (threeInRange_iff ..).mp hrange, (sourcesApart_iff ..).mp hapart⟩, (bothAdmitted_iff ..).mp hread,
      (ctEqual16_iff ..).mp htag, (allAdmitted_iff ..).mp hwrite⟩

/-- The TAG registers and their byte string determine each other (10_state.md R33). -/
theorem tagBytes_injective {c d : Inst} (h : tagBytes c = tagBytes d) : c.tag = d.tag := by
  refine Vector.ext fun i hi => ?_
  have hword := le32At_flatMap_ser32_vector c.tag ⟨i, hi⟩
  rw [show c.tag.toList.flatMap ser32 = d.tag.toList.flatMap ser32 from h, le32At_flatMap_ser32_vector] at hword
  exact hword.symm

/-- Settles O39: the tag computed does not depend on TAG, so at most one received tag is accepted. -/
theorem anyOtherTagFailsAuthentication : Obligations.AnyOtherTagFailsAuthentication := by
  intro s t tag hexec h0 htag
  obtain ⟨⟨hlen, hrange, hapart⟩, hread, hauth, -⟩ := aeadDecrypt_accepts_of_success hexec h0
  have hother : tagBytes { s.core with tag := tag } ≠ aeadExpectedTag s := by
    rw [← hauth]
    exact fun heq => htag (tagBytes_injective heq)
  obtain ⟨-, -, -, -, hfails, -⟩ := aeadDecryptRunsItsRule (s.setCore { s.core with tag := tag })
  exact hfails hlen hrange hapart hread hother

end Sys2Proof.Machine
end

section
/-! A command's result depends on its read ranges only (20_memory.md R61): two runs over memories that agree there. -/

namespace Sys2Proof.Machine

/-! ### Two memories, two runs -/

/-- Two memories hold the same bytes in the given ranges. -/
def AgreeOn (rs : List Range) (m m' : Memory) : Prop :=
  ∀ r ∈ rs, ∀ x, r.addr ≤ x → x < r.addr + r.len → readByte m x = readByte m' x

theorem AgreeOn.readBytes {rs : List Range} {m m' : Memory} {r : Range} (h : AgreeOn rs m m') (hr : r ∈ rs) :
    readBytes m r.addr r.len = readBytes m' r.addr r.len := readBytes_congr (h r hr)

/-- The same machine over another data memory. -/
def State.withMem (s : State) (m : Memory) : State := { s with mem := m }

@[simp] theorem withMem_core (s : State) (m : Memory) : (s.withMem m).core = s.core := rfl

/-- At an address two memories now hold the same byte, or each what it held before. -/
def SameByte (before before' after after' : Memory) (x : Nat) : Prop :=
  readByte after' x = readByte after x ∨
    (readByte after x = readByte before x ∧ readByte after' x = readByte before' x)

/-- A run from `s` to `t` and one over memory `m` to `u` leave the same instance, and at every address the same byte or
both what they found there. -/
def SameRun (s : State) (m : Memory) (t u : State) : Prop :=
  u.core = t.core ∧ ∀ x, SameByte s.mem m t.mem u.mem x

section
variable {s t u : State} {m : Memory}

theorem sameRun_refl (s : State) (m : Memory) : SameRun s m s (s.withMem m) := ⟨rfl, fun _ => .inr ⟨rfl, rfl⟩⟩

theorem SameRun.setCore (h : SameRun s m t u) (f : Inst → Inst) :
    SameRun s m (t.setCore (f t.core)) (u.setCore (f u.core)) := ⟨congrArg f h.1, h.2⟩

theorem SameRun.complete (h : SameRun s m t u) (e : ErrCode) : SameRun s m (t.complete e) (u.complete e) :=
  h.setCore fun c => { c with errcode := errNumber e, busy := false, done := true }

theorem SameRun.closeCtx (h : SameRun s m t u) : SameRun s m t.closeCtx u.closeCtx :=
  h.setCore fun c => { c with ctx := PolyCtx.closed }

theorem SameRun.setTag (h : SameRun s m t u) (b : List Byte) : SameRun s m (t.setTag b) (u.setTag b) :=
  h.setCore fun c => { c with tag := tagWords b }

theorem SameRun.setCtx (h : SameRun s m t u) (x : PolyCtx) : SameRun s m (t.setCtx x) (u.setCtx x) :=
  h.setCore fun c => { c with ctx := x }

theorem SameRun.setCtr33 (h : SameRun s m t u) (n : Nat) : SameRun s m (t.setCtr33 n) (u.setCtr33 n) :=
  h.setCore fun c => { c with counter := BitVec.ofNat 32 (n % 2 ^ 32), ctrExh := n / 2 ^ 32 != 0 }

theorem SameByte.writeByte {m1 m2 m1' m2' : Memory} {x : Nat} (h : SameByte m1' m2' m1 m2 x) (a : Nat) (b : Byte) :
    SameByte m1' m2' (writeByte m1 a b) (writeByte m2 a b) x := by
  unfold SameByte
  rw [readByte_writeByte, readByte_writeByte]
  split
  · exact .inl rfl
  · exact h

theorem SameByte.writeBytes {m1 m2 m1' m2' : Memory} {x : Nat} (h : SameByte m1' m2' m1 m2 x) (a : Nat)
    (v : List Byte) : SameByte m1' m2' (writeBytes m1 a v) (writeBytes m2 a v) x := by
  unfold SameByte
  rw [readByte_writeBytes, readByte_writeBytes]
  split
  · exact .inl rfl
  · exact h

theorem SameByte.freeBytes {m1 m2 m1' m2' : Memory} {x : Nat} (h : SameByte m1' m2' m1 m2 x) (p : Params)
    (d a n : Nat) : SameByte m1' m2' (freeBytes p m1 d a n) (freeBytes p m2 d a n) x := by
  induction n generalizing m1 m2 d a with
  | zero => exact h
  | succ n ih =>
    refine ih ?_ (d + 1) (a + 1)
    split
    · exact h.writeByte a _
    · exact h

theorem SameRun.memWrite (h : SameRun s m t u) (a : Nat) (v : List Byte) :
    SameRun s m (t.memWrite a v) (u.memWrite a v) := ⟨h.1, fun x => (h.2 x).writeBytes a v⟩

theorem SameRun.scribble (h : SameRun s m t u) (hparams : u.params = t.params) (hdraws : u.draws = t.draws) (a n : Nat) :
    SameRun s m (t.scribble a n) (u.scribble a n) := by
  refine ⟨h.1, fun x => ?_⟩
  rw [scribble_mem, scribble_mem, hparams, hdraws]
  exact (h.2 x).freeBytes t.params t.draws a n

end

/-! ### Command by command -/

theorem chacha20BlockRule_sameRun (s : State) (m : Memory) :
    SameRun s m (chacha20BlockRule s) (chacha20BlockRule (s.withMem m)) := by
  rcases chacha20Block_cases s with ⟨h0, h⟩ | ⟨h0, h1, h⟩ | ⟨h0, h1, h2, h⟩ | ⟨h0, h1, h2, h⟩ <;> rw [h]
  · rw [chacha20Block_counterRange (s.withMem m) h0]
    exact (sameRun_refl s m).complete _
  · rw [chacha20Block_address (s.withMem m) h0 h1]
    exact (sameRun_refl s m).complete _
  · rw [chacha20Block_busError (s.withMem m) h0 h1 h2]
    exact ((sameRun_refl s m).scribble rfl rfl _ _).complete _
  · rw [chacha20Block_ok (s.withMem m) h0 h1 h2]
    exact ((sameRun_refl s m).memWrite _ _).complete _

theorem chacha20XorRule_sameRun {s : State} {m : Memory} (hm : AgreeOn (readRanges .chacha20Xor s.core) m s.mem) :
    SameRun s m (chacha20XorRule s) (chacha20XorRule (s.withMem m)) := by
  have hsrc : (s.withMem m).memRead (r64 s.core.src) (r64 s.core.len) = s.memRead (r64 s.core.src) (r64 s.core.len) :=
    hm.readBytes (r := srcRange s.core) (List.mem_singleton.mpr rfl)
  rcases chacha20Xor_cases s with ⟨h0, h⟩ | ⟨h0, h1, h⟩ | ⟨h0, h1, h2, h⟩ | ⟨h0, h1, h2, h3, h⟩ |
    ⟨h0, h1, h2, h3, h⟩ <;> rw [h]
  · rw [chacha20Xor_counterRange (s.withMem m) h0]
    exact (sameRun_refl s m).complete _
  · rw [chacha20Xor_address (s.withMem m) h0 h1]
    exact (sameRun_refl s m).complete _
  · rw [chacha20Xor_overlap (s.withMem m) h0 h1 h2]
    exact (sameRun_refl s m).complete _
  · rw [chacha20Xor_busError (s.withMem m) h0 h1 h2 h3]
    exact ((sameRun_refl s m).scribble rfl rfl _ _).complete _
  · rw [chacha20Xor_ok (s.withMem m) h0 h1 h2 h3, withMem_core, hsrc]
    exact (((sameRun_refl s m).memWrite _ _).setCtr33 _).complete _

theorem poly1305InitRule_sameRun (s : State) (m : Memory) :
    SameRun s m (poly1305InitRule s) (poly1305InitRule (s.withMem m)) :=
  (((sameRun_refl s m).closeCtx).setCtx _).complete _

theorem poly1305UpdateRule_sameRun {s : State} {m : Memory} (hm : AgreeOn (readRanges .poly1305Update s.core) m s.mem) :
    SameRun s m (poly1305UpdateRule s) (poly1305UpdateRule (s.withMem m)) := by
  have hsrc : (s.withMem m).memRead (r64 s.core.src) (r64 s.core.len) = s.memRead (r64 s.core.src) (r64 s.core.len) :=
    hm.readBytes (r := srcRange s.core) (List.mem_singleton.mpr rfl)
  rcases poly1305Update_cases s with ⟨h0, h⟩ | ⟨h0, h1, h⟩ | ⟨h0, h1, h2, h⟩ | ⟨h0, h1, h2, h⟩ <;> rw [h]
  · rw [poly1305Update_noContext (s.withMem m) h0]
    exact (sameRun_refl s m).complete _
  · rw [poly1305Update_address (s.withMem m) h0 h1]
    exact (sameRun_refl s m).complete _
  · rw [poly1305Update_busError (s.withMem m) h0 h1 h2]
    exact (sameRun_refl s m).closeCtx.complete _
  · rw [poly1305Update_ok (s.withMem m) h0 h1 h2, withMem_core, hsrc]
    exact ((sameRun_refl s m).setCtx _).complete _

theorem poly1305FinishRule_sameRun (s : State) (m : Memory) :
    SameRun s m (poly1305FinishRule s) (poly1305FinishRule (s.withMem m)) := by
  rcases poly1305Finish_cases s with ⟨h0, h⟩ | ⟨h0, h⟩ <;> rw [h]
  · rw [poly1305Finish_noContext (s.withMem m) h0]
    exact (sameRun_refl s m).complete _
  · rw [poly1305Finish_ok (s.withMem m) h0]
    exact ((sameRun_refl s m).setTag _).closeCtx.complete _

theorem poly1305AuthRule_sameRun {s : State} {m : Memory} (hm : AgreeOn (readRanges .poly1305Auth s.core) m s.mem) :
    SameRun s m (poly1305AuthRule s) (poly1305AuthRule (s.withMem m)) := by
  have hsrc : (s.withMem m).memRead (r64 s.core.src) (r64 s.core.len) = s.memRead (r64 s.core.src) (r64 s.core.len) :=
    hm.readBytes (r := srcRange s.core) (List.mem_singleton.mpr rfl)
  rcases poly1305Auth_cases s with ⟨h0, h⟩ | ⟨h0, h1, h⟩ | ⟨h0, h1, h⟩ <;> rw [h]
  · rw [poly1305Auth_address (s.withMem m) h0]
    exact (sameRun_refl s m).complete _
  · rw [poly1305Auth_busError (s.withMem m) h0 h1]
    exact (sameRun_refl s m).closeCtx.complete _
  · rw [poly1305Auth_ok (s.withMem m) h0 h1, withMem_core, hsrc]
    exact ((sameRun_refl s m).closeCtx.setTag _).complete _

/-- The AEAD commands read their associated data and their input. -/
theorem aead_reads_alike {s : State} {m : Memory} (hm : AgreeOn [aadRange s.core, srcRange s.core] m s.mem) :
    (s.withMem m).memRead (r64 s.core.aad) (r64 s.core.aadlen) = s.memRead (r64 s.core.aad) (r64 s.core.aadlen) ∧
    (s.withMem m).memRead (r64 s.core.src) (r64 s.core.len) = s.memRead (r64 s.core.src) (r64 s.core.len) :=
  ⟨hm.readBytes (r := aadRange s.core) (List.mem_cons_self ..),
    hm.readBytes (r := srcRange s.core) (List.mem_cons_of_mem _ (List.mem_singleton.mpr rfl))⟩

theorem aeadEncryptRule_sameRun {s : State} {m : Memory} (hm : AgreeOn (readRanges .aeadEncrypt s.core) m s.mem) :
    SameRun s m (aeadEncryptRule s) (aeadEncryptRule (s.withMem m)) := by
  obtain ⟨haad, hsrc⟩ := aead_reads_alike hm
  rcases aeadEncrypt_cases s with ⟨h0, h⟩ | ⟨h0, h1, h⟩ | ⟨h0, h1, h2, h⟩ | ⟨h0, h1, h2, h3, h⟩ |
    ⟨h0, h1, h2, h3, h⟩ <;> rw [h]
  · rw [aeadEncrypt_length (s.withMem m) h0]
    exact (sameRun_refl s m).complete _
  · rw [aeadEncrypt_address (s.withMem m) h0 h1]
    exact (sameRun_refl s m).complete _
  · rw [aeadEncrypt_overlap (s.withMem m) h0 h1 h2]
    exact (sameRun_refl s m).complete _
  · rw [aeadEncrypt_busError (s.withMem m) h0 h1 h2 h3]
    exact ((sameRun_refl s m).closeCtx.scribble rfl rfl _ _).complete _
  · rw [aeadEncrypt_ok (s.withMem m) h0 h1 h2 h3, withMem_core, hsrc, haad]
    exact (((sameRun_refl s m).closeCtx.memWrite _ _).setTag _).complete _

theorem aeadDecryptRule_sameRun {s : State} {m : Memory} (hm : AgreeOn (readRanges .aeadDecrypt s.core) m s.mem) :
    SameRun s m (aeadDecryptRule s) (aeadDecryptRule (s.withMem m)) := by
  obtain ⟨haad, hsrc⟩ := aead_reads_alike hm
  rcases aeadDecrypt_cases s with ⟨h0, h⟩ | ⟨h0, h1, h⟩ | ⟨h0, h1, h2, h⟩ | ⟨h0, h1, h2, h3, h⟩ |
    ⟨h0, h1, h2, h3, h4, h⟩ | ⟨h0, h1, h2, h3, h4, h5, h⟩ | ⟨h0, h1, h2, h3, h4, h5, h⟩ <;> rw [h]
  · rw [aeadDecrypt_length (s.withMem m) h0]
    exact (sameRun_refl s m).complete _
  · rw [aeadDecrypt_address (s.withMem m) h0 h1]
    exact (sameRun_refl s m).complete _
  · rw [aeadDecrypt_overlap (s.withMem m) h0 h1 h2]
    exact (sameRun_refl s m).complete _
  · rw [aeadDecrypt_busErrorRead (s.withMem m) h0 h1 h2 h3]
    exact (sameRun_refl s m).closeCtx.complete _
  · rw [aeadDecrypt_authFail (s.withMem m) h0 h1 h2 h3 (by rwa [withMem_core, haad, hsrc])]
    exact (sameRun_refl s m).closeCtx.complete _
  · rw [aeadDecrypt_busErrorWrite (s.withMem m) h0 h1 h2 h3 (by rwa [withMem_core, haad, hsrc]) h5]
    exact ((sameRun_refl s m).closeCtx.scribble rfl rfl _ _).complete _
  · rw [aeadDecrypt_ok (s.withMem m) h0 h1 h2 h3 (by rwa [withMem_core, haad, hsrc]) h5, withMem_core, hsrc]
    exact ((sameRun_refl s m).closeCtx.memWrite _ _).complete _

theorem zeroizeRule_sameRun (s : State) (m : Memory) : SameRun s m (zeroizeRule s) (zeroizeRule (s.withMem m)) :=
  ((sameRun_refl s m).setCore fun c =>
    { c with key := Vector.replicate 8 0, tag := Vector.replicate 4 0 }).closeCtx.complete _

/-- Settles O17: each command's two runs, branch by branch of its rule. -/
theorem commandsReadOnlyTheirReadRanges : Obligations.CommandsReadOnlyTheirReadRanges := by
  intro i s m hm
  cases i with
  | chacha20Block => exact ⟨_, _, rfl, rfl, chacha20BlockRule_sameRun s m⟩
  | chacha20Xor => exact ⟨_, _, rfl, rfl, chacha20XorRule_sameRun hm⟩
  | poly1305Init => exact ⟨_, _, rfl, rfl, poly1305InitRule_sameRun s m⟩
  | poly1305Update => exact ⟨_, _, rfl, rfl, poly1305UpdateRule_sameRun hm⟩
  | poly1305Finish => exact ⟨_, _, rfl, rfl, poly1305FinishRule_sameRun s m⟩
  | poly1305Auth => exact ⟨_, _, rfl, rfl, poly1305AuthRule_sameRun hm⟩
  | aeadEncrypt => exact ⟨_, _, rfl, rfl, aeadEncryptRule_sameRun hm⟩
  | aeadDecrypt => exact ⟨_, _, rfl, rfl, aeadDecryptRule_sameRun hm⟩
  | zeroize => exact ⟨_, _, rfl, rfl, zeroizeRule_sameRun s m⟩

end Sys2Proof.Machine
end

section
/-! The STATUS word (10_state.md R34, R37, R38): each field at its bits. -/

namespace Sys2Proof.Machine

/-- A bit of STATUS, in the width its fields add up to. -/
theorem statusWord_getLsbD (c : Inst) (i : Nat) : (statusWord c).getLsbD i =
    (0#12 ++ BitVec.ofNat 4 c.ctx.pbuf.length ++ 0#5 ++ BitVec.ofBool c.overrun ++ BitVec.ofBool c.ctrExh ++
      BitVec.ofBool c.ctx.valid ++ c.errcode ++ BitVec.ofBool (statusAuthFail c) ++ BitVec.ofBool (statusErr c) ++
      BitVec.ofBool c.done ++ BitVec.ofBool c.busy).getLsbD i := rfl

theorem statusErr_eq (c : Inst) : statusErr c = decide (c.errcode ≠ 0) := by
  rw [Bool.eq_iff_iff, statusErr, bne_iff_ne, decide_eq_true_iff]

theorem statusAuthFail_eq (c : Inst) : statusAuthFail c = decide (c.errcode = 7) := by
  rw [Bool.eq_iff_iff, statusAuthFail, beq_iff_eq, decide_eq_true_iff]

/-- A field of a word is known from its bits. -/
theorem extractLsb'_eq {m n : Nat} {w : BitVec m} {x : BitVec n} (start : Nat)
    (h : ∀ i < n, w.getLsbD (start + i) = x.getLsbD i) : w.extractLsb' start n = x := by
  refine BitVec.eq_of_getLsbD_eq fun i hi => ?_
  rw [BitVec.getLsbD_extractLsb', h i hi, decide_eq_true hi, Bool.true_and]

/-- Settles O40: the field in which each bit of the word falls. -/
theorem statusFieldsStandInTheirBits : Obligations.StatusFieldsStandInTheirBits := by
  intro c w
  have hbit (i : Nat) : w.getLsbD i = _ := statusWord_getLsbD c i
  simp only [BitVec.getLsbD_append] at hbit
  refine ⟨?_, ?_, ?_, ?_, extractLsb'_eq 4 fun i hi => ?_, ?_, ?_, ?_, extractLsb'_eq 11 fun i hi => ?_, extractLsb'_eq 16 fun i hi => ?_,
    extractLsb'_eq 20 fun i hi => ?_⟩ <;> rw [hbit]
  · simp
  · simp
  · simp [statusErr_eq]
  · simp [statusAuthFail_eq]
  · interval_cases i <;> simp
  · simp
  · simp
  · simp
  · interval_cases i <;> simp
  · interval_cases i <;> simp
  · interval_cases i <;> simp

end Sys2Proof.Machine
end

section
/-! Host access to the registers (10_state.md R23, 43_control.md R231, R236, R237, 20_memory.md R76, R82): the instance an
address finds, what a read returns, where a write goes, the doorbell, and the claims a completion frees. -/

namespace Sys2Proof.Machine

/-! ### The instance of an address (10_state.md R23) -/

theorem instAt_eq_some {addr : Nat} {l : List Inst} {k : Nat} (h : instAt addr l = some k) :
    ∃ c, l[k]? = some c ∧ c.base ≤ addr ∧ addr < c.base + blockSize := by
  induction l generalizing k with
  | nil => cases h
  | cons c l ih =>
    unfold instAt at h
    split at h
    · next hin =>
      obtain rfl := Option.some.inj h
      exact ⟨c, rfl, hin⟩
    · split at h
      · next n hn =>
        obtain rfl := Option.some.inj h
        exact ih hn
      · cases h

theorem instAt_isSome {addr : Nat} {l : List Inst} (h : ∃ c ∈ l, c.base ≤ addr ∧ addr < c.base + blockSize) :
    ∃ k, instAt addr l = some k := by
  induction l with
  | nil => simp at h
  | cons c l ih =>
    unfold instAt
    split
    · exact ⟨0, rfl⟩
    · next hout =>
      obtain ⟨d, hd, hin⟩ := h
      rcases List.mem_cons.mp hd with rfl | hd
      · exact absurd hin hout
      · obtain ⟨k, hk⟩ := ih ⟨d, hd, hin⟩
        exact ⟨k + 1, by rw [hk]⟩

theorem focusAddr_of_instAt {s : State} {addr k : Nat} (h : instAt addr s.insts = some k) :
    s.focusAddr addr = s.focus k := by
  simp only [State.focusAddr, h]

/-- The number found is the one brought into focus. -/
theorem instAt_of_focusAddr {s u : State} {addr : Nat} (h : s.focusAddr addr = some u) :
    ∃ k, instAt addr s.insts = some k ∧ s.focus k = some u := by
  cases hk : instAt addr s.insts with
  | none => simp only [State.focusAddr, hk, reduceCtorEq] at h
  | some k => exact ⟨k, rfl, focusAddr_of_instAt hk ▸ h⟩

/-- Settles O43: the first block that holds the address is the one brought into focus. -/
theorem hostAddressFindsItsInstance : Obligations.HostAddressFindsItsInstance := by
  refine ⟨fun s u addr h => ?_, fun s addr h => ?_⟩
  · obtain ⟨k, hk, hu⟩ := instAt_of_focusAddr h
    obtain ⟨c, hc, hlo, hhi⟩ := instAt_eq_some hk
    obtain ⟨hget, -, hinsts⟩ := focus_eq_some hu
    obtain rfl : u.core = c := Option.some.inj (hget.symm.trans hc)
    exact ⟨hinsts, hlo, hhi, focus_eq hu⟩
  · obtain ⟨k, hk⟩ := instAt_isSome h
    obtain ⟨c, hc, -⟩ := instAt_eq_some hk
    obtain ⟨hlt, -⟩ := List.getElem?_eq_some_iff.mp hc
    rw [focusAddr_of_instAt hk]
    exact focus_isSome hlt

/-! ### A register read (43_control.md R237) -/

theorem regRead_key (i : Fin 8) (c : Inst) : regRead (regOffset (.key i)) c = 0 := by
  simp only [regRead, regAt_regOffset]

theorem regRead_nonce (j : Fin 3) (c : Inst) : regRead (regOffset (.nonce j)) c = c.nonce[j] := by
  simp only [regRead, regAt_regOffset]

theorem regRead_tag (k : Fin 4) (c : Inst) : regRead (regOffset (.tag k)) c = c.tag[k] := by
  simp only [regRead, regAt_regOffset]

theorem ctrlWord_eq (c : Inst) : ctrlWord c = if c.irqEn then 1 else 0 := by
  unfold ctrlWord
  cases c.irqEn <;> decide

theorem regAt_eq_status_iff (off : Nat) : regAt off = some .status ↔ off = 0x00C :=
  ⟨regAt_eq_some, fun h => h ▸ rfl⟩

/-- A STATUS read with BUSY = 0 observes the completion (20_memory.md R76). -/
theorem hostRegRead_observes {off : Nat} (x : Nat) {s : State} (h : off = 0x00C ∧ s.core.busy = false) :
    hostRegRead off x s = (s.setVar x (regRead off s.core)).setCore (unclaim s.core) :=
  if_pos ⟨(regAt_eq_status_iff off).mpr h.1, h.2⟩

/-- Every other read changes the host's variable only. -/
theorem hostRegRead_plain {off : Nat} (x : Nat) {s : State} (h : ¬(off = 0x00C ∧ s.core.busy = false)) :
    hostRegRead off x s = s.setVar x (regRead off s.core) :=
  if_neg fun hobs => h ⟨(regAt_eq_status_iff off).mp hobs.1, hobs.2⟩

/-- Settles O44: every register's read; and the two kinds of read by what they leave. -/
theorem hostReadReturnsTheRegister : Obligations.HostReadReturnsTheRegister := by
  refine ⟨fun c => ⟨rfl, ctrlWord_eq c, rfl, rfl, fun i => regRead_key i c, fun j => regRead_nonce j c, rfl, rfl, rfl, rfl,
    rfl, rfl, rfl, rfl, rfl, rfl, rfl, fun k => regRead_tag k c, fun off h => regRead_of_reserved (regAt_reserved h) c⟩,
    fun s u addr x h halign => ?_⟩
  have hother (y : Nat) (hy : y ≠ x) (w : Word) : getVar (u.setVar x w).host y = getVar s.host y := by
    rw [getVar_setVar_other u w hy, focusAddr_host h]
  have hprog : u.host.prog = s.host.prog ∧ u.host.pos = s.host.pos := by rw [focusAddr_host h]; exact ⟨rfl, rfl⟩
  refine ⟨_, busRead_reg x h halign, ?_⟩
  by_cases hobs : addr - u.core.base = 0x00C ∧ u.core.busy = false
  · rw [hostRegRead_observes x hobs]
    exact ⟨getVar_setVar_same u x _, fun y hy => hother y hy _, hprog.1, hprog.2, rfl, fun hno => absurd hobs hno,
      fun _ => ⟨rfl, rfl⟩⟩
  · rw [hostRegRead_plain x hobs]
    exact ⟨getVar_setVar_same u x _, fun y hy => hother y hy _, hprog.1, hprog.2, rfl, fun _ => rfl,
      fun hyes => absurd hyes hobs⟩

/-! ### A register write (43_control.md R236) -/

/-- A write to a frozen register other than CMD, at its offset. -/
theorem busWrite_frozen {s u : State} {addr : Nat} (v : Word) (h : s.focusAddr addr = some u) (hheld : u.core.held = false)
    {r : Reg} (hoff : addr - u.core.base = regOffset r) (hf : isFrozen r = true) (hcmd : r ≠ .cmd) :
    busWrite addr 4 v s =
      .next { u with core := if u.core.busy then { u.core with overrun := true } else storeReg r v u.core } := by
  have hreg : regAt (addr - u.core.base) = some r := by rw [hoff, regAt_regOffset]
  rw [busWrite_reg v h hheld (by rw [hoff, regOffset_aligned]) (by rw [hreg]; exact fun hr => hcmd (Option.some.inj hr)),
    regWrite_frozen v u.core hreg hf]

theorem busWrite_reserved {s u : State} {addr : Nat} (v : Word) (h : s.focusAddr addr = some u)
    (hheld : u.core.held = false) (halign : (addr - u.core.base) % 4 = 0) (hnone : regAt (addr - u.core.base) = none) :
    busWrite addr 4 v s = .next u := by
  rw [busWrite_reg v h hheld halign (by rw [hnone]; exact nofun), regWrite_reserved v u.core hnone]

/-- Settles O45: a held CORE takes no write; else the access rule of the register at the offset. -/
theorem hostWriteReachesItsRegister : Obligations.HostWriteReachesItsRegister := by
  refine ⟨fun s u addr v h hheld halign => busWrite_held v h hheld halign, fun s u addr v h hheld => ?_⟩
  have frozen (r : Reg) (hf : isFrozen r = true) (hcmd : r ≠ .cmd) (hoff : addr - u.core.base = regOffset r) :=
    busWrite_frozen v h hheld hoff hf hcmd
  have plain (r : Reg) (hoff : addr - u.core.base = regOffset r) (hcmd : r ≠ .cmd) :
      busWrite addr 4 v s = .next { u with core := regWrite (regOffset r) v u.core } := by
    rw [← hoff]
    refine busWrite_reg v h hheld (by rw [hoff, regOffset_aligned]) ?_
    rw [hoff, regAt_regOffset]
    exact fun hr => hcmd (Option.some.inj hr)
  refine ⟨?_, fun hoff => plain .ctrl hoff nofun, fun hoff => plain .status hoff nofun,
    fun i => frozen (.key i) rfl nofun, fun j => frozen (.nonce j) rfl nofun, frozen .counter rfl nofun,
    frozen .srcLo rfl nofun, frozen .srcHi rfl nofun, frozen .dstLo rfl nofun, frozen .dstHi rfl nofun,
    frozen .lenLo rfl nofun, frozen .lenHi rfl nofun, frozen .aadLo rfl nofun, frozen .aadHi rfl nofun,
    frozen .aadlenLo rfl nofun, frozen .aadlenHi rfl nofun, fun k => frozen (.tag k) rfl nofun⟩
  rintro (hid | ⟨halign, hnone⟩)
  · exact plain .id hid nofun
  · exact busWrite_reserved v h hheld halign (regAt_reserved hnone)

end Sys2Proof.Machine
end

section
/-! The doorbell (43_control.md R231, 20_memory.md R82), the completion observed (R76), and a frozen write beside it
(60_exceptions.md R269). -/

namespace Sys2Proof.Machine

/-! ### The doorbell -/

theorem writeCmd_busy {s : State} (v : Word) (h : s.core.busy = true) :
    writeCmd v s = .next (s.setCore { s.core with overrun := true }) := if_pos h

theorem writeCmd_accepted {s : State} {v : Word} (h : s.core.busy = false)
    (hclear : ∀ o ∈ s.before ++ s.after, claimsMeet (wordReadRanges v s.core) (wordWriteRanges v s.core) o = false) :
    writeCmd v s = .next (s.setCore (ringDoorbell v s.core)) := by
  have hno : ¬(s.before ++ s.after).any (claimsMeet (wordReadRanges v s.core) (wordWriteRanges v s.core)) = true := by
    rw [List.any_eq_true]
    rintro ⟨o, ho, hmeet⟩
    exact Bool.false_ne_true ((hclear o ho).symm.trans hmeet)
  rw [writeCmd, if_neg (Bool.eq_false_iff.mp h), if_neg hno]

theorem writeCmd_conflict {s : State} {v : Word} {o : Inst} (h : s.core.busy = false) (ho : o ∈ s.before ++ s.after)
    (hmeet : claimsMeet (wordReadRanges v s.core) (wordWriteRanges v s.core) o = true) :
    writeCmd v s = .fault .launchRace := by
  rw [writeCmd, if_neg (Bool.eq_false_iff.mp h), if_pos (List.any_eq_true.mpr ⟨o, ho, hmeet⟩)]

theorem wordReadRanges_of_decode {v : Word} {i : Instr} (h : decode v = .ok i) (c : Inst) :
    wordReadRanges v c = readRanges i c := by
  simp only [wordReadRanges, h]

theorem wordWriteRanges_of_decode {v : Word} {i : Instr} (h : decode v = .ok i) (c : Inst) :
    wordWriteRanges v c = writeRanges i c := by
  simp only [wordWriteRanges, h]

/-- Settles O46: CMD's offset while held, while busy, and while idle with the launch clear. -/
theorem doorbellStartsOneCommand : Obligations.DoorbellStartsOneCommand := by
  refine ⟨fun s u addr v h hoff hheld => busWrite_held v h hheld (by rw [hoff]), fun s u addr v h hoff hheld => ?_⟩
  rw [busWrite_cmd v h hheld hoff]
  refine ⟨fun hbusy => writeCmd_busy v hbusy, fun hidle hclear =>
    ⟨wordReadRanges v u.core ++ u.core.claimReads, wordWriteRanges v u.core ++ u.core.claimWrites,
      writeCmd_accepted hidle hclear, fun i hi => ?_⟩⟩
  rw [wordReadRanges_of_decode hi, wordWriteRanges_of_decode hi]
  exact ⟨List.subset_append_left .., List.subset_append_left ..⟩

/-- A byte in common is a meeting (20_memory.md R66). -/
theorem disjoint_false_of_common {x y : Range} {a : Nat} (hx : x.addr ≤ a ∧ a < x.addr + x.len)
    (hy : y.addr ≤ a ∧ a < y.addr + y.len) : disjoint x y = false := by
  rw [disjoint_false_iff]
  omega

/-- Settles O47: the common byte makes the command's ranges meet the other instance's claims. -/
theorem conflictingLaunchFaults : Obligations.ConflictingLaunchFaults := by
  intro s u addr v i o x y a h hoff hheld hidle hi ho hxlo hxhi hylo hyhi hclaims
  have hmeet := disjoint_false_of_common ⟨hxlo, hxhi⟩ ⟨hylo, hyhi⟩
  rw [busWrite_cmd v h hheld hoff]
  refine writeCmd_conflict hidle ho ?_
  rw [wordReadRanges_of_decode hi, wordWriteRanges_of_decode hi, claimsMeet_iff]
  exact hclaims.imp (fun ⟨hx, hy⟩ => ⟨x, hx, y, hy, hmeet⟩) fun ⟨hx, hy⟩ => ⟨x, hx, y, hy, hmeet⟩

/-! ### The completion observed -/

theorem irqWord_eq (b : Bool) : BitVec.setWidth 32 (BitVec.ofBool b) = if b then 1 else 0 := by
  cases b <;> rfl

theorem sampleIrq_some {s u : State} {k : Nat} (x : Nat) (h : s.focus k = some u) : sampleIrq k x s =
    .next (if irqLevel u.core then (u.setVar x (if irqLevel u.core then 1 else 0)).setCore (unclaim u.core)
      else u.setVar x (if irqLevel u.core then 1 else 0)) := by
  simp only [sampleIrq, h, irqWord_eq]
  rfl

/-- Settles O50: a STATUS read and an IRQ sample, each by what it sees. -/
theorem observedCompletionFreesTheRanges : Obligations.ObservedCompletionFreesTheRanges := by
  refine ⟨fun s u addr x h hoff => ⟨_, busRead_reg x h (by rw [hoff]), fun hidle => ?_, fun hbusy => ?_⟩,
    fun s u k x h => ⟨_, sampleIrq_some x h, ?_⟩⟩
  · rw [hostRegRead_observes x ⟨hoff, hidle⟩]
    exact ⟨rfl, rfl⟩
  · rw [hostRegRead_plain x fun hobs => Bool.false_ne_true (hobs.2.symm.trans hbusy)]
    rfl
  · cases hirq : irqLevel u.core with
    | true => exact ⟨getVar_setVar_same u x 1, fun _ => rfl, nofun⟩
    | false => exact ⟨getVar_setVar_same u x 0, nofun, fun _ => rfl⟩

/-! ### A frozen write and the completion -/

/-- A write to a frozen register other than CMD, with the reset input released. -/
theorem hostRegWrite_frozen {s : State} {r : Reg} (v : Word) (hheld : s.core.held = false) (hf : isFrozen r = true)
    (hcmd : r ≠ .cmd) : hostRegWrite (regOffset r) v s =
      .next (s.setCore (if s.core.busy then { s.core with overrun := true } else storeReg r v s.core)) := by
  have hoff : ¬regAt (regOffset r) = some .cmd := by
    rw [regAt_regOffset]
    exact fun hr => hcmd (Option.some.inj hr)
  rw [hostRegWrite, if_neg (Bool.eq_false_iff.mp hheld), if_neg hoff,
    regWrite_frozen v s.core (regAt_regOffset r) hf]

/-- Settles O51: while busy the write is dropped and the completion comes; after the completion it is stored. -/
theorem frozenWriteAndCompletionInEitherOrder : Obligations.FrozenWriteAndCompletionInEitherOrder := by
  intro s r v hbusy hheld hf hcmd
  refine ⟨?_, ?_⟩
  · obtain ⟨u, hu, -, hdone, -⟩ := everyEngineStepCompletes (s.setCore { s.core with overrun := true }) hbusy
    have hwrite := hostRegWrite_frozen v hheld hf hcmd
    rw [hbusy, if_pos rfl] at hwrite
    exact ⟨_, u, hwrite, hu, rfl, (engineTurn_kept hu).overrun, hdone⟩
  · obtain ⟨t, ht, hidle, hdone, -⟩ := everyEngineStepCompletes s hbusy
    have hkept := engineTurn_kept ht
    have hwrite := hostRegWrite_frozen v (hkept.held.trans hheld) hf hcmd
    rw [hidle, if_neg Bool.false_ne_true] at hwrite
    exact ⟨t, _, ht, hwrite, rfl, (storeReg_done r v t.core).trans hdone, (storeReg_overrun r v t.core).trans hkept.overrun⟩

end Sys2Proof.Machine
end

section
/-! Host and platform access to data memory under the busy rule (20_memory.md R60, R65, R76; assumptions 6, 12, 14, 25). -/

namespace Sys2Proof.Machine

theorem claimed_iff (s : State) (a : Nat) : claimed s a = true ↔
    ∃ c ∈ s.insts, ∃ r ∈ c.claimReads ++ c.claimWrites, r.addr ≤ a ∧ a < r.addr + r.len := by
  simp only [claimed, List.any_eq_true, inSpan, Bool.and_eq_true, decide_eq_true_eq]

/-- An admitted address exists (20_memory.md R65). -/
theorem lt_of_memAdmit {p : Params} {a : Nat} (h : memAdmit p a = true) : a < 2 ^ p.paW := by
  rw [memAdmit, Bool.and_eq_true, decide_eq_true_iff] at h
  exact h.1

section
variable {s : State} {a : Nat} (t : State)

theorem dataAccess_noSuchAddress (h : 2 ^ s.params.paW ≤ a) : dataAccess s a t = .fault .noSuchAddress := by
  rw [dataAccess, dataAccessStop, if_pos h]

theorem dataAccess_notOrdinary (h : a < 2 ^ s.params.paW) (hadm : memAdmit s.params a = false) :
    dataAccess s a t = .refused .notOrdinaryMemory := by
  rw [dataAccess, dataAccessStop, if_neg (not_le.mpr h), hadm, if_pos Bool.not_false]

theorem dataAccess_claimed (hadm : memAdmit s.params a = true) (h : claimed s a = true) :
    dataAccess s a t = .fault .bufferRace := by
  rw [dataAccess, dataAccessStop, if_neg (not_le.mpr (lt_of_memAdmit hadm)), hadm, if_neg (by decide), if_pos h]

theorem dataAccess_free (hadm : memAdmit s.params a = true) (h : ¬claimed s a = true) :
    dataAccess s a t = .next t := by
  rw [dataAccess, dataAccessStop, if_neg (not_le.mpr (lt_of_memAdmit hadm)), hadm, if_neg (by decide), if_neg h]

end

/-- Settles O49: the three accesses are one `dataAccess` each, by the four kinds of address. -/
theorem busyRuleOnDataMemory : Obligations.BusyRuleOnDataMemory := by
  refine ⟨fun s a x v => ⟨fun h => ?_, fun h hadm => ?_⟩, fun s a x v hadm => ⟨fun h => ?_, fun h => ?_⟩⟩
  · exact ⟨dataAccess_noSuchAddress _ h, dataAccess_noSuchAddress _ h, dataAccess_noSuchAddress _ h⟩
  · exact ⟨dataAccess_notOrdinary _ h hadm, dataAccess_notOrdinary _ h hadm, dataAccess_notOrdinary _ h hadm⟩
  · rw [← claimed_iff] at h
    exact ⟨dataAccess_claimed _ hadm h, dataAccess_claimed _ hadm h, dataAccess_claimed _ hadm h⟩
  · rw [← claimed_iff] at h
    exact ⟨⟨_, dataAccess_free _ hadm h, wrote_writeBytes s.mem a [v]⟩,
      ⟨_, dataAccess_free _ hadm h, getVar_setVar_same s x _, fun y hy => getVar_setVar_other s _ hy, rfl, rfl⟩,
      dataAccess_free _ hadm h⟩

end Sys2Proof.Machine
end

section
/-! No host access depends on a secret (10_state.md R50, 43_control.md R237): each access with the secrets blanked before
it ends as it does without, up to the secrets. -/

namespace Sys2Proof.Machine

/-! ### Blanking -/

@[simp] theorem visible_visible_inst (c : Inst) : c.visible.visible = c.visible := by
  simp only [Inst.visible, List.length_replicate]

theorem map_visible_visible (l : List Inst) : (l.map Inst.visible).map Inst.visible = l.map Inst.visible := by
  rw [List.map_map]
  exact List.map_congr_left fun c _ => visible_visible_inst c

theorem visible_visible (s : State) : s.visible.visible = s.visible := by
  simp only [State.visible, map_visible_visible, visible_visible_inst]

theorem visible_insts (s : State) : s.visible.insts = s.insts.map Inst.visible := by
  simp only [State.insts, State.visible, List.map_append, List.map_cons]

/-- A change of the instance in focus that looks alike. -/
theorem setCore_visible (s : State) {c d : Inst} (h : c.visible = d.visible) :
    (s.setCore c).visible = (s.visible.setCore d).visible := by
  simp only [State.setCore, State.visible, map_visible_visible, h]

/-- Bringing an instance into focus does not depend on the secrets. -/
theorem focus_visible (s : State) (k : Nat) : s.visible.focus k = (s.focus k).map State.visible := by
  unfold State.focus
  rw [visible_insts, ← List.map_drop, ← List.map_take]
  cases s.insts.drop k <;> rfl

theorem instAt_visible (addr : Nat) (l : List Inst) : instAt addr (l.map Inst.visible) = instAt addr l := by
  induction l with
  | nil => rfl
  | cons c l ih =>
    rw [List.map_cons, instAt, instAt, ih]
    rfl

theorem focusAddr_visible (s : State) (addr : Nat) : s.visible.focusAddr addr = (s.focusAddr addr).map State.visible := by
  unfold State.focusAddr
  rw [visible_insts, instAt_visible]
  cases instAt addr s.insts with
  | none => rfl
  | some k => exact focus_visible s k

/-! ### What an instance shows and takes -/

theorem statusWord_visible (c : Inst) : statusWord c.visible = statusWord c := by
  have hlen : c.visible.ctx.pbuf.length = c.ctx.pbuf.length := List.length_replicate
  unfold statusWord
  rw [hlen]
  rfl

/-- No register read shows a secret. -/
theorem regRead_visible (off : Nat) (c : Inst) : regRead off c.visible = regRead off c := by
  unfold regRead
  cases regAt off with
  | none => rfl
  | some r =>
    cases r with
    | status => exact statusWord_visible c
    | _ => rfl

theorem writeStatus_visible (v : Word) (c : Inst) : writeStatus v c.visible = (writeStatus v c).visible := by
  rw [statusWriteClearsItsFields, statusWriteClearsItsFields]
  rfl

theorem storeReg_visible (r : Reg) (v : Word) (c : Inst) :
    (storeReg r v c).visible = (storeReg r v c.visible).visible := by
  cases r <;> simp only [storeReg, Inst.visible, List.length_replicate]

theorem regWrite_visible (off : Nat) (v : Word) (c : Inst) :
    (regWrite off v c).visible = (regWrite off v c.visible).visible := by
  cases hr : regAt off with
  | none => rw [regWrite_reserved v c hr, regWrite_reserved v c.visible hr, visible_visible_inst]
  | some r =>
    cases hf : isFrozen r with
    | true =>
      rw [regWrite_frozen v c hr hf, regWrite_frozen v c.visible hr hf]
      change _ = Inst.visible (if c.busy then _ else _)
      split
      · exact (visible_visible_inst { c with overrun := true }).symm
      · exact storeReg_visible r v c
    | false =>
      simp only [regWrite, hr]
      cases r with
      | id => exact (visible_visible_inst c).symm
      | ctrl => exact (visible_visible_inst { c with irqEn := v.getLsbD 0 }).symm
      | status =>
        change (writeStatus v c).visible = (writeStatus v c.visible).visible
        rw [writeStatus_visible, visible_visible_inst]
      | _ => cases hf

/-! ### Every access -/

/-- What `f` makes of a state, up to the secrets, does not depend on the secrets. -/
def Blind (f : State → Host.Outcome State Fault Refusal) : Prop :=
  ∀ s, visibleOutcome (f s) = visibleOutcome (f s.visible)

theorem writeCmd_blind (v : Word) : Blind (writeCmd v) := by
  intro s
  have hmeet : (s.visible.before ++ s.visible.after).any
      (claimsMeet (wordReadRanges v s.visible.core) (wordWriteRanges v s.visible.core)) =
      (s.before ++ s.after).any (claimsMeet (wordReadRanges v s.core) (wordWriteRanges v s.core)) := by
    change (s.before.map Inst.visible ++ s.after.map Inst.visible).any _ = _
    rw [← List.map_append, List.any_map]
    rfl
  unfold writeCmd
  rw [hmeet]
  change _ = visibleOutcome (if s.core.busy then _ else _)
  split
  · exact congrArg Host.Outcome.next (setCore_visible s (visible_visible_inst { s.core with overrun := true }).symm)
  · split
    · rfl
    · exact congrArg Host.Outcome.next (setCore_visible s (visible_visible_inst (ringDoorbell v s.core)).symm)

theorem hostRegWrite_blind (off : Nat) (v : Word) : Blind (hostRegWrite off v) := by
  intro s
  have hwrite := regWrite_visible off v s.core
  unfold hostRegWrite
  change _ = visibleOutcome (if s.core.held then _ else _)
  split
  · exact congrArg Host.Outcome.next (visible_visible s).symm
  · split
    · exact writeCmd_blind v s
    · exact congrArg Host.Outcome.next (setCore_visible s hwrite)

/-- An access that brings an instance into focus and goes on there is as blind as what it does there. -/
theorem atFocus_blind (o : State → Option State) (ho : ∀ s, o s.visible = (o s).map State.visible)
    {f g : State → Host.Outcome State Fault Refusal} {r : Refusal} (hf : Blind f)
    (hnone : ∀ s, o s = none → g s = .refused r) (hsome : ∀ s u, o s = some u → g s = f u) : Blind g := by
  intro s
  cases hu : o s with
  | none => rw [hnone s hu, hnone s.visible (by rw [ho, hu]; rfl)]
  | some u => rw [hsome s u hu, hsome s.visible u.visible (by rw [ho, hu]; rfl), hf u]

theorem blind_ite {b : State → Bool} {f g : State → Host.Outcome State Fault Refusal} (hb : ∀ s, b s.visible = b s)
    (hf : Blind f) (hg : Blind g) : Blind fun s => if b s then f s else g s := by
  intro s
  simp only [hb]
  split
  · exact hf s
  · exact hg s

theorem busWrite_blind (addr bytes : Nat) (v : Word) : Blind (busWrite addr bytes v) := by
  have hform : Blind fun u => if regAccessOk (addr - u.core.base) bytes then hostRegWrite (addr - u.core.base) v u
      else .fault .hostAccess :=
    blind_ite (fun _ => rfl) (fun u => hostRegWrite_blind (addr - u.core.base) v u) fun _ => rfl
  exact atFocus_blind (·.focusAddr addr) (focusAddr_visible · addr) hform (r := .noRegisterBlock) (fun s h => by simp only [busWrite, h])
    fun s u h => by simp only [busWrite, h]

theorem hostRegRead_visible (off x : Nat) (s : State) :
    (hostRegRead off x s).visible = (hostRegRead off x s.visible).visible := by
  have hread : regRead off s.visible.core = regRead off s.core := regRead_visible off s.core
  by_cases hobs : off = 0x00C ∧ s.core.busy = false
  · rw [hostRegRead_observes x hobs, hostRegRead_observes (s := s.visible) x hobs, hread]
    exact setCore_visible (s.setVar x (regRead off s.core)) (visible_visible_inst (unclaim s.core)).symm
  · rw [hostRegRead_plain x hobs, hostRegRead_plain (s := s.visible) x hobs, hread]
    exact (visible_visible (s.setVar x (regRead off s.core))).symm

theorem busRead_blind (addr bytes x : Nat) : Blind (busRead addr bytes x) := by
  have hform : Blind fun u => if regAccessOk (addr - u.core.base) bytes then
      .next (hostRegRead (addr - u.core.base) x u) else .fault .hostAccess :=
    blind_ite (fun _ => rfl) (fun u => congrArg Host.Outcome.next (hostRegRead_visible (addr - u.core.base) x u))
      fun _ => rfl
  exact atFocus_blind (·.focusAddr addr) (focusAddr_visible · addr) hform (r := .noRegisterBlock) (fun s h => by simp only [busRead, h])
    fun s u h => by simp only [busRead, h]

theorem sampleIrq_blind (k x : Nat) : Blind (sampleIrq k x) := by
  refine atFocus_blind (·.focus k) (focus_visible · k) (r := .noSuchInstance) (fun u => ?_) (fun s h => by simp only [sampleIrq, h])
    fun s u h => sampleIrq_some x h
  refine congrArg Host.Outcome.next ?_
  cases hirq : irqLevel u.core with
  | true =>
    rw [show irqLevel u.visible.core = true from hirq]
    exact setCore_visible (u.setVar x 1) (visible_visible_inst (unclaim u.core)).symm
  | false =>
    rw [show irqLevel u.visible.core = false from hirq]
    exact (visible_visible (u.setVar x 0)).symm

theorem dataAccessStop_visible (s : State) (a : Nat) : dataAccessStop s.visible a = dataAccessStop s a := by
  have hclaimed : claimed s.visible a = claimed s a := by
    rw [claimed, visible_insts, List.any_map]
    rfl
  simp only [dataAccessStop, hclaimed]
  rfl

theorem dataAccess_blind (a : Nat) {f : State → State} (hf : ∀ s, (f s).visible = (f s.visible).visible) :
    Blind fun s => dataAccess s a (f s) := by
  intro s
  simp only [dataAccess, dataAccessStop_visible]
  cases dataAccessStop s a with
  | none => exact congrArg Host.Outcome.next (hf s)
  | some stop => cases stop <;> rfl

theorem runBnz_blind (x : Nat) (mask : Word) (l : Nat) : Blind (runBnz x mask l) := by
  intro s
  by_cases h : getVar s.host x &&& mask = 0
  · rw [runBnz_fallsThrough l h, runBnz_fallsThrough (s := s.visible) l h]
    exact congrArg Host.Outcome.next (visible_visible s).symm
  · cases hl : labelPos l s.host.prog with
    | none => rw [runBnz_noSuchLabel h hl, runBnz_noSuchLabel (s := s.visible) h hl]
    | some n =>
      rw [runBnz_taken h hl, runBnz_taken (s := s.visible) h hl]
      exact congrArg Host.Outcome.next (visible_visible (s.setPos n)).symm

theorem runStmt_blind (st : HostStmt) : Blind (runStmt st) := by
  cases st with
  | write addr bytes v => exact busWrite_blind addr bytes v
  | read addr bytes x => exact busRead_blind addr bytes x
  | label l => exact fun s => congrArg Host.Outcome.next (visible_visible s).symm
  | bnz x mask l => exact runBnz_blind x mask l
  | loadByte a x => exact dataAccess_blind a fun s => (visible_visible (s.setVar x _)).symm
  | storeByte a v => exact dataAccess_blind a fun s => (visible_visible (s.memWrite a [v])).symm
  | irq k x => exact sampleIrq_blind k x

/-- Settles O52: register reads by register, and the host's turn by statement. -/
theorem hostSeesNoSecret : Obligations.HostSeesNoSecret := by
  refine ⟨fun c off => (regRead_visible off c).symm, fun s => ?_⟩
  cases hst : s.host.prog[s.host.pos]? with
  | none =>
    have hpos := List.getElem?_eq_none_iff.mp hst
    rw [hostTurn_done hpos, hostTurn_done (s := s.visible) hpos]
    exact congrArg Host.Outcome.next (visible_visible s).symm
  | some st =>
    rw [hostTurn_stmt hst, hostTurn_stmt (s := s.visible) hst]
    exact runStmt_blind st (s.setPos (s.host.pos + 1))

end Sys2Proof.Machine
end
